-- ==== Sys2Proof/Word.lean ====
section
/-! DEFINITION. The word types of the machine (spec/00_scope.md R5, R6): bytes, 16-bit words, the immediates
of an instruction word and the index of a general register. -/

namespace Sys2Proof

/-- An 8-bit value: a V register, DT, ST, a byte of MEM (R5, `REG_BITS`). -/
abbrev Byte := BitVec 8

/-- A 16-bit value: an instruction word, `PC`, `I`, a stack entry (R6, R14, R13, R15). -/
abbrev Word := BitVec 16

/-- The index of a general register `V[0]`..`V[15]` (R5 `NREGS`, R11). -/
abbrev Reg := Fin 16

/-- The number of a key, 0x0 to 0xF (R5 `NKEYS`, R21). -/
abbrev Key := Fin 16

/-- VF, the register that doubles as the machine's only flag (R12). -/
abbrev VF : Reg := 15

end Sys2Proof
end

