-- ==== Sys2Proof/Config.lean ====
section
/-! DEFINITION. The implementation parameters of spec/00_scope.md R5, and the free values of the model.
A parameter to which R5 gives a value for this hardware is a definition; F, K and the random bytes, to which
no source gives a value, are constants without a body, so that no proof can know one. -/

namespace Sys2Proof

/-- The two admitted write orders of R112 for the five flag-writing ALU instructions. -/
inductive VfWriteOrder where
  | flagLast
  | resultLast
deriving DecidableEq, Repr

/-- The parameters of R5 that are not fixed by the source document. `stackLimit = none` is the document's
unbounded stack. -/
structure Params where
  indexBits    : Nat
  stackLimit   : Option Nat
  vfWriteOrder : VfWriteOrder
  font         : List Byte
  cadence      : Nat
  historyCap   : Nat
deriving DecidableEq, Repr

/-- R5 `INDEX_BITS`: 16 for this hardware (decision D2; log 5). -/
abbrev Config.indexBits : Nat := 16

/-- R5 `STACK_LIMIT`: no limit for this hardware (decision D3; log 6). -/
abbrev Config.stackLimit : Option Nat := none

/-- R5 `VF_WRITE_ORDER`: `flag_last` for this spec (decision D8; log 7). -/
abbrev Config.vfWriteOrder : VfWriteOrder := .flagLast

/-- R5 `MEM_SIZE`: 4096 bytes. -/
abbrev Config.memSize : Nat := 0x1000

/-- The last byte address, 0xFFF (R18, R40). -/
abbrev Config.lastAddr : Nat := 0xFFF

/-- R5 `PROG_BASE`: load address and reset value of `PC`. -/
abbrev Config.progBase : Nat := 0x200

/-- R5 `PROG_MAX`: the largest program `LoadProgram` accepts. -/
abbrev Config.progMax : Nat := 0xE00

/-- The `FONT` table of R43, 16 glyphs of 5 bytes, at 0x000 (decision D17; log 8). -/
def Config.font : List Byte :=
  [0xF0, 0x90, 0x90, 0x90, 0xF0] ++ [0x20, 0x60, 0x20, 0x20, 0x70] ++
  [0xF0, 0x10, 0xF0, 0x80, 0xF0] ++ [0xF0, 0x10, 0xF0, 0x10, 0xF0] ++
  [0x90, 0x90, 0xF0, 0x10, 0x10] ++ [0xF0, 0x80, 0xF0, 0x10, 0xF0] ++
  [0xF0, 0x80, 0xF0, 0x90, 0xF0] ++ [0xF0, 0x10, 0x20, 0x40, 0x40] ++
  [0xF0, 0x90, 0xF0, 0x90, 0xF0] ++ [0xF0, 0x90, 0xF0, 0x10, 0xF0] ++
  [0xF0, 0x90, 0xF0, 0x90, 0x90] ++ [0xE0, 0x90, 0xE0, 0x90, 0xE0] ++
  [0xF0, 0x80, 0x80, 0x80, 0xF0] ++ [0xE0, 0x90, 0x90, 0x90, 0xE0] ++
  [0xF0, 0x80, 0xF0, 0x80, 0xF0] ++ [0xF0, 0x80, 0xF0, 0x80, 0x80]

/-- A free natural number: one less than F. No source gives F a value (R5, D14; log 1). -/
opaque Config.cadenceLessOne : Nat

/-- A free natural number: one less than K. No source gives K a value (R5, D14; log 1). -/
opaque Config.historyLessOne : Nat

/-- The free random bytes of `RND` (R111, D16; log 2): the byte of the n-th draw. -/
opaque Config.randomByte : Nat → Byte

/-- R5 `F`: `StepCall`s per scheduler tick, any natural number of at least 1. -/
def Config.cadence : Nat := Config.cadenceLessOne + 1

/-- R5 `K`: capacity of the Pixel History, any natural number of at least 1. -/
def Config.historyCap : Nat := Config.historyLessOne + 1

/-- The parameters of this hardware as one record. -/
def Config.params : Params where
  indexBits    := Config.indexBits
  stackLimit   := Config.stackLimit
  vfWriteOrder := Config.vfWriteOrder
  font         := Config.font
  cadence      := Config.cadence
  historyCap   := Config.historyCap

end Sys2Proof
end

