-- ==== Sys2Proof/Syntax.lean ====
section
/-! DEFINITION. The 34 instructions of spec/30_encoding.md R64 (spec/opcode_table.json), one constructor per row,
in the table's order. Operand fields are those of R62's formats: `x`, `y` register indexes, `kk` 8 bits,
`addr` 12 bits, `n` 4 bits, each of exactly the field's width. -/

namespace Sys2Proof

inductive Instr where
  /-- `CLS`, R130 -/
  | cls
  /-- `RET`, R90 -/
  | ret
  /-- `JP addr`, R91 -/
  | jp (addr : BitVec 12)
  /-- `CALL addr`, R92 -/
  | call (addr : BitVec 12)
  /-- `SE Vx,kk`, R93 -/
  | seImm (x : Reg) (kk : Byte)
  /-- `SNE Vx,kk`, R94 -/
  | sneImm (x : Reg) (kk : Byte)
  /-- `SE Vx,Vy`, R95 -/
  | seReg (x y : Reg)
  /-- `LD Vx,kk`, R100 -/
  | ldImm (x : Reg) (kk : Byte)
  /-- `ADD Vx,kk`, R101 -/
  | addImm (x : Reg) (kk : Byte)
  /-- `LD Vx,Vy`, R102 -/
  | ldReg (x y : Reg)
  /-- `OR Vx,Vy`, R103 -/
  | orReg (x y : Reg)
  /-- `AND Vx,Vy`, R104 -/
  | andReg (x y : Reg)
  /-- `XOR Vx,Vy`, R105 -/
  | xorReg (x y : Reg)
  /-- `ADD Vx,Vy`, R106 -/
  | addReg (x y : Reg)
  /-- `SUB Vx,Vy`, R107 -/
  | subReg (x y : Reg)
  /-- `SHR Vx`, R108: the y field is no operand (R65) -/
  | shr (x : Reg)
  /-- `SUBN Vx,Vy`, R109 -/
  | subnReg (x y : Reg)
  /-- `SHL Vx`, R110: the y field is no operand (R65) -/
  | shl (x : Reg)
  /-- `SNE Vx,Vy`, R96 -/
  | sneReg (x y : Reg)
  /-- `LD I,addr`, R120 -/
  | ldI (addr : BitVec 12)
  /-- `JP V0,addr`, R97 -/
  | jpV0 (addr : BitVec 12)
  /-- `RND Vx,kk`, R111 -/
  | rnd (x : Reg) (kk : Byte)
  /-- `DRW Vx,Vy,n`, R131 -/
  | drw (x y : Reg) (n : BitVec 4)
  /-- `SKP Vx`, R150 -/
  | skp (x : Reg)
  /-- `SKNP Vx`, R151 -/
  | sknp (x : Reg)
  /-- `LD Vx,DT`, R152 -/
  | ldVxDT (x : Reg)
  /-- `LD Vx,K`, R153 -/
  | ldVxK (x : Reg)
  /-- `LD DT,Vx`, R154 -/
  | ldDTVx (x : Reg)
  /-- `LD ST,Vx`, R155 -/
  | ldSTVx (x : Reg)
  /-- `ADD I,Vx`, R121 -/
  | addI (x : Reg)
  /-- `LD F,Vx`, R122 -/
  | ldF (x : Reg)
  /-- `LD B,Vx`, R123 -/
  | ldB (x : Reg)
  /-- `LD [I],Vx`, R124 -/
  | storeBlock (x : Reg)
  /-- `LD Vx,[I]`, R125 -/
  | loadBlock (x : Reg)
deriving DecidableEq, Repr

end Sys2Proof
end

