-- ==== Sys2Proof/WellFormed.lean ====
section
/-! DEFINITION. Well-formedness. A term of `Instr` has nothing left to check: each operand field has the type of
exactly the width R61 gives it, and y is no field of `SHR` and `SHL`. What can be ill formed is what comes from
outside: the image of a program (spec/00_scope.md R5 `PROG_MAX`), the parameters of a machine (R5) and an
operand written as a number, which is well formed when it fits its field (spec/30_encoding.md R61). -/

namespace Sys2Proof

/-- R5, R201: a program is at most 0xE00 bytes long. -/
def programWellFormed (bytes : List Byte) : Bool := decide (bytes.length ≤ Config.progMax)

/-- R5: `INDEX_BITS` is 16 or 12. -/
def Params.indexBitsOk (p : Params) : Bool := p.indexBits == 16 || p.indexBits == 12

/-- R5: `STACK_LIMIT` is infinite or a natural number of at least 1. -/
def Params.stackLimitOk (p : Params) : Bool :=
  match p.stackLimit with
  | none => true
  | some l => decide (1 ≤ l)

/-- R5: `FONT` is 80 bytes. -/
def Params.fontOk (p : Params) : Bool := p.font.length == 80

/-- R5: F and K are at least 1. -/
def Params.cadenceOk (p : Params) : Bool := decide (1 ≤ p.cadence) && decide (1 ≤ p.historyCap)

/-- The admitted parameter values of R5. -/
def Params.wellFormed (p : Params) : Bool :=
  p.indexBitsOk && p.stackLimitOk && p.fontOk && p.cadenceOk

/-- A register operand given as a number fits the 4-bit fields x and y (R61). -/
def regOperand? (x : Nat) : Option Reg := if h : x < 16 then some ⟨x, h⟩ else none

/-- An immediate of `bits` bits given as a number fits its field (R61, R63: unsigned, no scaling). -/
def immOperand? (bits v : Nat) : Option (BitVec bits) :=
  if v < 2 ^ bits then some (BitVec.ofNat bits v) else none

end Sys2Proof
end

