-- ==== Sys2Proof/Decode.lean ====
section
/-! DEFINITION. Encoding and decoding (spec/30_encoding.md). The numerals of R64 stand once, in `Op.pattern`; the
decoder finds the one row a word matches (R65, R70) and cuts the fields of R61 from it; the encoder puts the
same pattern and fields together. -/

namespace Sys2Proof

/-- The formats of R62. -/
inductive Format where
  | Z | A | XK | XY | XYN | X
deriving DecidableEq, Repr

/-- The bits a format fixes: the `mask` column of R64. -/
def Format.mask : Format → Word
  | .Z => 0xFFFF
  | .A | .XK | .XYN => 0xF000
  | .XY => 0xF00F
  | .X => 0xF0FF

/-- The rows of R64's table, without operands. -/
inductive Op where
  | cls | ret | jp | call | seImm | sneImm | seReg | ldImm | addImm | ldReg | orReg | andReg | xorReg
  | addReg | subReg | shr | subnReg | shl | sneReg | ldI | jpV0 | rnd | drw | skp | sknp | ldVxDT | ldVxK
  | ldDTVx | ldSTVx | addI | ldF | ldB | storeBlock | loadBlock
deriving DecidableEq, Repr

/-- Every row, in the table's order. -/
def Op.all : List Op :=
  [.cls, .ret, .jp, .call, .seImm, .sneImm, .seReg, .ldImm, .addImm, .ldReg, .orReg, .andReg, .xorReg,
   .addReg, .subReg, .shr, .subnReg] ++
  [.shl, .sneReg, .ldI, .jpV0, .rnd, .drw, .skp, .sknp, .ldVxDT, .ldVxK,
   .ldDTVx, .ldSTVx, .addI, .ldF, .ldB, .storeBlock, .loadBlock]

/-- The `format` column of R64. -/
def Op.format : Op → Format
  | .cls | .ret => .Z
  | .jp | .call | .ldI | .jpV0 => .A
  | .seImm | .sneImm | .ldImm | .addImm | .rnd => .XK
  | .seReg | .ldReg | .orReg | .andReg | .xorReg | .addReg | .subReg | .shr | .subnReg | .shl | .sneReg => .XY
  | .drw => .XYN
  | .skp | .sknp | .ldVxDT | .ldVxK | .ldDTVx | .ldSTVx | .addI | .ldF | .ldB | .storeBlock | .loadBlock => .X

/-- The `match` column of R64 (the spec's general-knowledge numerals G1; log 10). -/
def Op.pattern : Op → Word
  | .cls => 0x00E0
  | .ret => 0x00EE
  | .jp => 0x1000
  | .call => 0x2000
  | .seImm => 0x3000
  | .sneImm => 0x4000
  | .seReg => 0x5000
  | .ldImm => 0x6000
  | .addImm => 0x7000
  | .ldReg => 0x8000
  | .orReg => 0x8001
  | .andReg => 0x8002
  | .xorReg => 0x8003
  | .addReg => 0x8004
  | .subReg => 0x8005
  | .shr => 0x8006
  | .subnReg => 0x8007
  | .shl => 0x800E
  | .sneReg => 0x9000
  | .ldI => 0xA000
  | .jpV0 => 0xB000
  | .rnd => 0xC000
  | .drw => 0xD000
  | .skp => 0xE09E
  | .sknp => 0xE0A1
  | .ldVxDT => 0xF007
  | .ldVxK => 0xF00A
  | .ldDTVx => 0xF015
  | .ldSTVx => 0xF018
  | .addI => 0xF01E
  | .ldF => 0xF029
  | .ldB => 0xF033
  | .storeBlock => 0xF055
  | .loadBlock => 0xF065

/-- The labels of R64's third column (R69), the names a listing shows. -/
def Op.label : Op → String
  | .cls => "CLS"
  | .ret => "RET"
  | .jp => "JP addr"
  | .call => "CALL addr"
  | .seImm => "SE Vx,kk"
  | .sneImm => "SNE Vx,kk"
  | .seReg => "SE Vx,Vy"
  | .ldImm => "LD Vx,kk"
  | .addImm => "ADD Vx,kk"
  | .ldReg => "LD Vx,Vy"
  | .orReg => "OR Vx,Vy"
  | .andReg => "AND Vx,Vy"
  | .xorReg => "XOR Vx,Vy"
  | .addReg => "ADD Vx,Vy"
  | .subReg => "SUB Vx,Vy"
  | .shr => "SHR Vx"
  | .subnReg => "SUBN Vx,Vy"
  | .shl => "SHL Vx"
  | .sneReg => "SNE Vx,Vy"
  | .ldI => "LD I,addr"
  | .jpV0 => "JP V0,addr"
  | .rnd => "RND Vx,kk"
  | .drw => "DRW Vx,Vy,n"
  | .skp => "SKP Vx"
  | .sknp => "SKNP Vx"
  | .ldVxDT => "LD Vx,DT"
  | .ldVxK => "LD Vx,K"
  | .ldDTVx => "LD DT,Vx"
  | .ldSTVx => "LD ST,Vx"
  | .addI => "ADD I,Vx"
  | .ldF => "LD F,Vx"
  | .ldB => "LD B,Vx"
  | .storeBlock => "LD [I],Vx"
  | .loadBlock => "LD Vx,[I]"

/-- The `mask` column of R64. -/
def Op.mask (o : Op) : Word := o.format.mask

/-- A word matches a row when `w & mask = match` (R64). -/
def Op.matchesWord (o : Op) (w : Word) : Bool := w &&& o.mask == o.pattern

/-! ## Fields of an instruction word (R61), all unsigned -/

/-- `x = w[11:8]`. -/
def fieldX (w : Word) : Reg := (w.extractLsb' 8 4).toFin

/-- `y = w[7:4]`. -/
def fieldY (w : Word) : Reg := (w.extractLsb' 4 4).toFin

/-- `n = w[3:0]`. -/
def fieldN (w : Word) : BitVec 4 := w.extractLsb' 0 4

/-- `kk = w[7:0]`. -/
def fieldKK (w : Word) : Byte := w.extractLsb' 0 8

/-- `addr = w[11:0]`. -/
def fieldAddr (w : Word) : BitVec 12 := w.extractLsb' 0 12

/-! ## Decoding -/

/-- The row a word matches, or none: the classifier of R65 and R70. -/
def classify (w : Word) : Option Op := Op.all.find? (fun o => o.matchesWord w)

/-- The instruction of a row with the operands its format takes from the word (R61, R62, R84). -/
def Op.assemble (w : Word) : Op → Instr
  | .cls => .cls
  | .ret => .ret
  | .jp => .jp (fieldAddr w)
  | .call => .call (fieldAddr w)
  | .seImm => .seImm (fieldX w) (fieldKK w)
  | .sneImm => .sneImm (fieldX w) (fieldKK w)
  | .seReg => .seReg (fieldX w) (fieldY w)
  | .ldImm => .ldImm (fieldX w) (fieldKK w)
  | .addImm => .addImm (fieldX w) (fieldKK w)
  | .ldReg => .ldReg (fieldX w) (fieldY w)
  | .orReg => .orReg (fieldX w) (fieldY w)
  | .andReg => .andReg (fieldX w) (fieldY w)
  | .xorReg => .xorReg (fieldX w) (fieldY w)
  | .addReg => .addReg (fieldX w) (fieldY w)
  | .subReg => .subReg (fieldX w) (fieldY w)
  | .shr => .shr (fieldX w)
  | .subnReg => .subnReg (fieldX w) (fieldY w)
  | .shl => .shl (fieldX w)
  | .sneReg => .sneReg (fieldX w) (fieldY w)
  | .ldI => .ldI (fieldAddr w)
  | .jpV0 => .jpV0 (fieldAddr w)
  | .rnd => .rnd (fieldX w) (fieldKK w)
  | .drw => .drw (fieldX w) (fieldY w) (fieldN w)
  | .skp => .skp (fieldX w)
  | .sknp => .sknp (fieldX w)
  | .ldVxDT => .ldVxDT (fieldX w)
  | .ldVxK => .ldVxK (fieldX w)
  | .ldDTVx => .ldDTVx (fieldX w)
  | .ldSTVx => .ldSTVx (fieldX w)
  | .addI => .addI (fieldX w)
  | .ldF => .ldF (fieldX w)
  | .ldB => .ldB (fieldX w)
  | .storeBlock => .storeBlock (fieldX w)
  | .loadBlock => .loadBlock (fieldX w)

/-- The instruction a word stands for; none for an unknown instruction (R65, R66). -/
def decodeWord (w : Word) : Option Instr := (classify w).map (fun o => o.assemble w)

/-- R70: the text a listing shows for a word, empty exactly for an unknown word. -/
def listing (w : Word) : String :=
  match classify w with
  | some o => o.label
  | none => ""

/-- Why a byte sequence is no instruction. -/
inductive DecodeError where
  /-- fewer than two bytes are left (R60: every instruction is exactly 2 bytes) -/
  | truncated
  /-- the word matches no row of the opcode map (R66) -/
  | unknownInstruction (w : Word)
deriving DecidableEq, Repr

/-- R46: the byte at the lower address is `w[15:8]`, the next one `w[7:0]`. -/
def joinBytes (hi lo : Byte) : Word := hi ++ lo

/-- `w[15:8]`, the byte of an instruction word at the lower address (R46). -/
def hiByte (w : Word) : Byte := w.extractLsb' 8 8

/-- `w[7:0]`, the byte of an instruction word at the higher address (R46). -/
def loByte (w : Word) : Byte := w.extractLsb' 0 8

/-- Decoding from bytes: the first instruction and the bytes after it, or the reason there is none (R60, R66). -/
def decode : List Byte → Except DecodeError (Instr × List Byte)
  | hi :: lo :: rest =>
    match decodeWord (joinBytes hi lo) with
    | some i => .ok (i, rest)
    | none => .error (.unknownInstruction (joinBytes hi lo))
  | _ => .error .truncated

/-! ## Encoding -/

/-- The row of an instruction. -/
def Instr.op : Instr → Op
  | .cls => .cls
  | .ret => .ret
  | .jp _ => .jp
  | .call _ => .call
  | .seImm _ _ => .seImm
  | .sneImm _ _ => .sneImm
  | .seReg _ _ => .seReg
  | .ldImm _ _ => .ldImm
  | .addImm _ _ => .addImm
  | .ldReg _ _ => .ldReg
  | .orReg _ _ => .orReg
  | .andReg _ _ => .andReg
  | .xorReg _ _ => .xorReg
  | .addReg _ _ => .addReg
  | .subReg _ _ => .subReg
  | .shr _ => .shr
  | .subnReg _ _ => .subnReg
  | .shl _ => .shl
  | .sneReg _ _ => .sneReg
  | .ldI _ => .ldI
  | .jpV0 _ => .jpV0
  | .rnd _ _ => .rnd
  | .drw _ _ _ => .drw
  | .skp _ => .skp
  | .sknp _ => .sknp
  | .ldVxDT _ => .ldVxDT
  | .ldVxK _ => .ldVxK
  | .ldDTVx _ => .ldDTVx
  | .ldSTVx _ => .ldSTVx
  | .addI _ => .addI
  | .ldF _ => .ldF
  | .ldB _ => .ldB
  | .storeBlock _ => .storeBlock
  | .loadBlock _ => .loadBlock

/-- x in bits 11:8 (R61). -/
def placeX (x : Reg) : Word := BitVec.ofNat 16 x.val <<< 8

/-- y in bits 7:4 (R61). -/
def placeY (y : Reg) : Word := BitVec.ofNat 16 y.val <<< 4

/-- The operand bits of an instruction; the ignored y field of `SHR` and `SHL` is 0 (R62, R65). -/
def Instr.operandBits : Instr → Word
  | .cls | .ret => 0
  | .jp addr | .call addr | .ldI addr | .jpV0 addr => addr.setWidth 16
  | .seImm x kk | .sneImm x kk | .ldImm x kk | .addImm x kk | .rnd x kk => placeX x ||| kk.setWidth 16
  | .seReg x y | .ldReg x y | .orReg x y | .andReg x y | .xorReg x y | .addReg x y | .subReg x y
  | .subnReg x y | .sneReg x y => placeX x ||| placeY y
  | .drw x y n => placeX x ||| placeY y ||| n.setWidth 16
  | .shr x | .shl x | .skp x | .sknp x | .ldVxDT x | .ldVxK x | .ldDTVx x | .ldSTVx x | .addI x | .ldF x
  | .ldB x | .storeBlock x | .loadBlock x => placeX x

/-- The word of an instruction (R64). -/
def encode (i : Instr) : Word := i.op.pattern ||| i.operandBits

/-- The two bytes of an instruction as they lie in memory (R46). -/
def encodeBytes (i : Instr) : List Byte := [hiByte (encode i), loByte (encode i)]

/-! ## The opcode table's numbering -/

/-- The word the table numbers: `nbits` bits of `w`, every bit above them 0. -/
def tableWord (nbits w : Nat) : Word := BitVec.ofNat 16 (w % 2 ^ nbits)

/-- What the decoder reads from the word `w` of the opcode table, laid out big-endian (R46). -/
def decodeTableWord (nbits w : Nat) : Option Instr :=
  match decode [hiByte (tableWord nbits w), loByte (tableWord nbits w)] with
  | .ok (i, _) => some i
  | .error _ => none

end Sys2Proof
end

