-- ==== Sys2Proof/Machine/State.lean ====
section
/-! DEFINITION. The state of the machine: the record of spec/10_state.md R10, plus the output trace of R27 and
the model's own count of random draws. Plain data throughout. -/

namespace Sys2Proof.Machine

/-- The causes of R160; `none` is "no fault recorded". `Cause.code` (Ops.lean) gives the 3-bit codes. -/
inductive Cause where
  | none
  | emptyStack
  | outOfBounds
  | fetchOutOfBounds
  | stackOverflow
deriving DecidableEq, Repr

/-- The sticky fault record `FAULT` of R25. -/
structure FaultRecord where
  cause : Cause
  addr  : Word
  info  : Nat
deriving DecidableEq, Repr

/-- The framebuffer of R19: 32 rows of 64 one-bit pixels; row y, then column x. -/
abbrev Framebuffer := Vector (Vector Bool 64) 32

/-- MEM (R18) as address and byte pairs in the canonical form of `Memory.wf` (Memory.lean). -/
abbrev Memory := List Host.Cell

/-- The output events of R27. -/
inductive Event where
  /-- a rising edge of `sound_on` (R27, R176) -/
  | soundStart
  /-- a falling edge of `sound_on` (R27, R176, R200) -/
  | soundStop
  /-- `Frame(list)`: ((x, y), level) triples (R27, R137) -/
  | frame (pixels : List ((Nat × Nat) × Nat))
  /-- `Diag(UnknownInstruction, w, a)` (R27, R85) -/
  | diag (word addr : Word)
  /-- `Fault(cause, addr, info)` (R27, R163) -/
  | fault (cause : Cause) (addr : Word) (info : Nat)
deriving DecidableEq, Repr

/-- The reasons a step can stop outside its own state: there are none. Every fault of R160 is an entry into the
faulted state (R163, R164), which is a next state; so no step of this machine ends in `Host.Outcome.fault`. -/
inductive Fault where
deriving DecidableEq, Repr

/-- The reasons a step can have no meaning. -/
inductive Refusal where
  /-- An instruction without a meaning, by its mnemonic; raised by `exec`'s refused arms only, of which this model
  has none. Safe. -/
  | notModelled (mnemonic : String)
deriving DecidableEq, Repr

structure State where
  /-- V[0]..V[15] (R11, R12) -/
  v       : Vector Byte 16
  /-- I (R13) -/
  i       : Word
  /-- PC (R14) -/
  pc      : Word
  /-- STACK, bottom first, the most recently pushed value last (R15) -/
  stack   : List Word
  /-- MEM (R18) -/
  mem     : Memory
  /-- DT (R16) -/
  dt      : Byte
  /-- ST (R17) -/
  st      : Byte
  /-- FB (R19) -/
  fb      : Framebuffer
  /-- HIST, oldest first (R20) -/
  hist    : List Framebuffer
  /-- KEY[0]..KEY[15] (R21) -/
  keys    : Vector Bool 16
  /-- KW_ARMED (R22) -/
  kwArmed : Bool
  /-- KW_REG (R22) -/
  kwReg   : Reg
  /-- CTR (R23) -/
  ctr     : Nat
  /-- SND, the level of `sound_on` (R24, R27) -/
  snd     : Bool
  /-- FAULT (R25) -/
  fault   : FaultRecord
  /-- the output trace, oldest event first (R27; log 3) -/
  trace   : List Event
  /-- the model's own: how many random bytes have been drawn (R111; log 2) -/
  draws   : Nat
deriving DecidableEq, Repr

/-- What a step or an instruction answers. -/
abbrev StepResult := Host.Outcome State Fault Refusal

/-- The state at power-on and after `Reset` (R28, R203). Memory lists nothing: an unlisted address reads as its
reset contents, the font table and zeros (R28; log 9). -/
def State.reset : State where
  v       := Vector.replicate 16 0
  i       := 0
  pc      := 0x200
  stack   := []
  mem     := []
  dt      := 0
  st      := 0
  fb      := Vector.replicate 32 (Vector.replicate 64 false)
  hist    := []
  keys    := Vector.replicate 16 false
  kwArmed := false
  kwReg   := 0
  ctr     := 0
  snd     := false
  fault   := { cause := .none, addr := 0, info := 0 }
  trace   := []
  draws   := 0

end Sys2Proof.Machine
end

