-- ==== Sys2Proof/Machine/Memory.lean ====
section
/-! DEFINITION. MEM (spec/20_memory.md) as a sorted list of cells in one canonical form. -/

namespace Sys2Proof.Machine

/-- What an address reads as that no cell lists: the reset contents of R28, the font table at 0x000..0x04F and
0x00 elsewhere. -/
def resetByte (a : Nat) : Byte := Config.font.getD a 0

/-- The canonical form: addresses strictly rising, all inside the 4096 bytes of R40, no cell equal to what its
address reads as unlisted. -/
abbrev Memory.wf (m : Memory) : Prop :=
  m.Pairwise (fun p q => p.1 < q.1) ∧ ∀ c ∈ m, c.1 < Config.memSize ∧ c.2 ≠ resetByte c.1

/-- `MemRead(a, 1)` of R7. The rules that use it check `a ≤ 0xFFF` first (R45). -/
def Memory.read : Memory → Nat → Byte
  | [], a => resetByte a
  | (k, c) :: rest, a => if a = k then c else Memory.read rest a

/-- The cells that make address `a` read as `b`: none when it does so unlisted. -/
def Memory.cell (a : Nat) (b : Byte) : Memory := if b = resetByte a then [] else [(a, b)]

/-- `MemWrite(a, 1, b)` of R7, keeping the canonical form. The rules that use it check `a ≤ 0xFFF` first (R45). -/
def Memory.write : Memory → Nat → Byte → Memory
  | [], a, b => Memory.cell a b
  | (k, c) :: rest, a, b =>
    if a < k then Memory.cell a b ++ (k, c) :: rest
    else if a = k then Memory.cell a b ++ rest
    else (k, c) :: Memory.write rest a b

/-- Byte writes at ascending addresses from `a` (R44). -/
def Memory.writeBytes : Memory → Nat → List Byte → Memory
  | m, _, [] => m
  | m, a, b :: bs => Memory.writeBytes (m.write a b) (a + 1) bs

/-- Byte reads at ascending addresses from `a` (R44). -/
def Memory.readBytes (m : Memory) (a count : Nat) : List Byte := (List.range count).map (fun j => m.read (a + j))

/-- `MemRead(a, 2)` of R7: big-endian, for the fetch only (R46). -/
def Memory.readWord (m : Memory) (a : Nat) : Word := joinBytes (m.read a) (m.read (a + 1))

end Sys2Proof.Machine
end

