-- ==== Sys2Proof/Machine/Ops.lean ====
section
/-! DEFINITION. The named operations over registers, memory and the fault record: the one place where each piece
of state is written (spec/10_state.md, spec/20_memory.md), and taking a fault (spec/60_exceptions.md R163). -/

namespace Sys2Proof.Machine

/-! ## Registers -/

/-- `V[x]` (R11). -/
def State.readV (s : State) (x : Reg) : Byte := s.v[x]

/-- `V[x] <- b` (R11). -/
def State.writeV (s : State) (x : Reg) (b : Byte) : State := { s with v := s.v.set x b }

/-- `I <- w` (R13). -/
def State.setI (s : State) (w : Word) : State := { s with i := w }

/-- `pc <- w` (R14). -/
def State.setPc (s : State) (w : Word) : State := { s with pc := w }

/-- `STACK <- l` (R15). -/
def State.setStack (s : State) (l : List Word) : State := { s with stack := l }

/-- `MEM <- m` (R18). -/
def State.setMem (s : State) (m : Memory) : State := { s with mem := m }

/-- `DT <- b` (R16). -/
def State.setDt (s : State) (b : Byte) : State := { s with dt := b }

/-- `ST <- b` (R17). -/
def State.setSt (s : State) (b : Byte) : State := { s with st := b }

/-- `FB <- f` (R19). -/
def State.setFb (s : State) (f : Framebuffer) : State := { s with fb := f }

/-- `HIST <- h` (R20). -/
def State.setHist (s : State) (h : List Framebuffer) : State := { s with hist := h }

/-- `KEY[k] <- b` (R21). -/
def State.setKey (s : State) (k : Key) (b : Bool) : State := { s with keys := s.keys.set k b }

/-- `KW_REG <- r; KW_ARMED <- 1`: `ArmKeyWait(r)` of R174. -/
def State.armKeyWait (s : State) (r : Reg) : State := { s with kwArmed := true, kwReg := r }

/-- `KW_ARMED <- 0` (R171); `KW_REG` keeps its value, without meaning (R22). -/
def State.disarmKeyWait (s : State) : State := { s with kwArmed := false }

/-- `CTR <- n` (R23). -/
def State.setCtr (s : State) (n : Nat) : State := { s with ctr := n }

/-- `SND <- b` (R24). -/
def State.setSnd (s : State) (b : Bool) : State := { s with snd := b }

/-- `FAULT <- f` (R25). -/
def State.setFault (s : State) (f : FaultRecord) : State := { s with fault := f }

/-- `emit e`: the event goes to the end of the output trace (R7, R27). -/
def State.emit (s : State) (e : Event) : State := { s with trace := s.trace ++ [e] }

/-- `draw rnd`: the count of draws advances (R111; log 2). -/
def State.countDraw (s : State) : State := { s with draws := s.draws + 1 }

/-- `KEY[k]`, the pure query `IsKeyDown(k)` of R173. -/
def State.isKeyDown (s : State) (k : Key) : Bool := s.keys[k]

/-- The output level `sound_on`, equal to `SND` at all times (R27). -/
def State.soundOn (s : State) : Bool := s.snd

/-! ## Faults -/

/-- The 3-bit codes of R160. -/
def Cause.code : Cause → BitVec 3
  | .none => 0
  | .emptyStack => 1
  | .outOfBounds => 2
  | .fetchOutOfBounds => 3
  | .stackOverflow => 4

/-- R25: while `cause ≠ 0` the machine is faulted. -/
def State.faulted (s : State) : Bool := s.fault.cause.code != 0

/-- Fault entry, R163: the record is written, one `Fault` event is emitted, nothing else changes. There is no
return from a fault (R165): `Reset` and an accepted `LoadProgram` (HostOps.lean) clear the record. -/
def State.takeFault (s : State) (c : Cause) (a : Word) (info : Nat) : State :=
  (s.setFault { cause := c, addr := a, info := info }).emit (.fault c a info)

/-- `raise c(info)` inside an instruction rule: there `PC = a + 2` for the fetch address a (R83), so a is
`PC - 2` (DEDUCED; log 13). `PC` keeps the advance (R86). -/
def raise (c : Cause) (info : Nat) (s : State) : StepResult := .next (s.takeFault c (s.pc - 2) info)

/-- Clear the fault record (R165). -/
def FaultRecord.clear : FaultRecord := { cause := .none, addr := 0, info := 0 }

/-! ## Control flow -/

/-- A skip: "advance program counter by 2 more" when the condition holds (R93 to R96, R150, R151). -/
def skipIf (b : Bool) (s : State) : StepResult := .next (if b then s.setPc (s.pc + 2) else s)

/-- A jump: `pc <- t`, the target unchecked (R98). -/
def jumpTo (t : Word) (s : State) : StepResult := .next (s.setPc t)

/-- `length(STACK) = STACK_LIMIT` (R15). -/
def stackFull (limit : Option Nat) (l : List Word) : Bool := limit == some l.length

/-- `push(v)` of R15 followed by the jump of R92, for a given `STACK_LIMIT`. -/
def pushAndJump (limit : Option Nat) (t : Word) (s : State) : StepResult :=
  if stackFull limit s.stack then raise .stackOverflow 0 s
  else jumpTo t (s.setStack (s.stack ++ [s.pc]))

/-- `pop()` of R15 followed by the jump of R90. -/
def popAndJump (s : State) : StepResult :=
  match s.stack.getLast? with
  | none => raise .emptyStack 0 s
  | some t => jumpTo t (s.setStack s.stack.dropLast)

/-! ## Data memory -/

/-- The highest address of `count` bytes from `base` (R45): a sum of naturals, never reduced (R126). -/
def highestAddr (base count : Nat) : Nat := base + count - 1

/-- R45: the highest address is compared with 0xFFF before any byte is moved and before any register is written;
no byte, no check (R131 for n = 0). -/
def withinMemory (base count : Nat) (s : State) (effect : StepResult) : StepResult :=
  if 0 < count ∧ Config.lastAddr < highestAddr base count then raise .outOfBounds (highestAddr base count) s
  else effect

end Sys2Proof.Machine
end

