-- ==== Sys2Proof/Machine/Operands.lean ====
section
/-! DEFINITION. Operand forms: the widening of immediates (spec/30_encoding.md R63), the key a register names
(spec/45_timer_key.md R150), the bytes and addresses of the memory instructions (spec/43_index_memory.md R123 to
R127, spec/44_display.md R131). -/

namespace Sys2Proof.Machine

/-- `zext_16(addr)` (R63). -/
def addrWord (addr : BitVec 12) : Word := addr.setWidth 16

/-- `zext_16(v)` of a byte (R97). -/
def byteWord (b : Byte) : Word := b.setWidth 16

/-- The key a register value names: its low four bits (R150, decision D9; log 11). -/
def keyOf (b : Byte) : Key := (b.extractLsb' 0 4).toFin

/-- The registers in ascending order. -/
def allRegs : List Reg := [0, 1, 2, 3, 4, 5, 6, 7, 8, 9, 10, 11, 12, 13, 14, 15]

/-- The number of registers V0..Vx (R124). -/
def blockCount (x : Reg) : Nat := x.val + 1

/-- `V[0]`, .., `V[x]` in ascending order (R124). -/
def State.blockBytes (s : State) (x : Reg) : List Byte := (allRegs.take (blockCount x)).map s.readV

/-- `V[j] <- MemRead(base + j, 1)` for j from 0 to x in ascending order (R125). -/
def State.loadBlockRegs (s : State) (base : Nat) (x : Reg) : State :=
  (allRegs.take (blockCount x)).foldl (fun t j => t.writeV j (s.mem.read (base + j.val))) s

/-- The hundreds, tens and units digits of a byte (R123, R126). -/
def bcdDigits (b : Byte) : List Byte :=
  [BitVec.ofNat 8 (b.toNat / 100), BitVec.ofNat 8 (b.toNat / 10 % 10), BitVec.ofNat 8 (b.toNat % 10)]

/-- `V[x] * 5`, the address of a glyph, without a nibble mask (R122). -/
def glyphAddr (b : Byte) : Word := BitVec.ofNat 16 (b.toNat * 5)

end Sys2Proof.Machine
end

