-- ==== Sys2Proof/Machine/Flags.lean ====
section
/-! DEFINITION. Flag computations (spec/42_alu.md R112, R113; spec/43_index_memory.md R121; spec/10_state.md R12).
Each writes the whole byte of VF with 0x00 or 0x01. -/

namespace Sys2Proof.Machine

/-- The byte a flag is written as (R12). -/
def flagByte (f : Bool) : Byte := if f then 1 else 0

/-- Carry: `a + b > 255` (R106, R113). -/
def carryOf (a b : Byte) : Bool := decide (255 < a.toNat + b.toNat)

/-- Inverse of borrow of `a - b`: `a ≥ b` (R107, R113). -/
def noBorrowOf (a b : Byte) : Bool := decide (b.toNat ≤ a.toNat)

/-- The bit a right shift puts out: bit 0 before the shift (R108). -/
def lowBitOf (a : Byte) : Bool := a.getLsbD 0

/-- The bit a left shift puts out: bit 7 before the shift (R110). -/
def highBitOf (a : Byte) : Bool := a.getLsbD 7

/-- The sum of R121 before masking, for a given `INDEX_BITS`. -/
def indexSum (i : Word) (b : Byte) : Nat := i.toNat + b.toNat

/-- Index overflow: `s > 2^INDEX_BITS - 1` (R121). -/
def indexOverflow (bits : Nat) (i : Word) (b : Byte) : Bool := decide (2 ^ bits - 1 < indexSum i b)

/-- `s mod 2^INDEX_BITS` (R121). -/
def indexMasked (bits : Nat) (i : Word) (b : Byte) : Word := BitVec.ofNat 16 (indexSum i b % 2 ^ bits)

/-- `V[15] <- f`. -/
def State.writeFlag (s : State) (f : Bool) : State := s.writeV VF (flagByte f)

/-- The two writes of the five flag-writing ALU instructions, result to `V[x]` and flag to VF, in the order R112
gives; the order shows only for x = 0xF. -/
def State.writeResultFlag (s : State) (order : VfWriteOrder) (x : Reg) (r : Byte) (f : Bool) : State :=
  match order with
  | .flagLast => (s.writeV x r).writeFlag f
  | .resultLast => (s.writeFlag f).writeV x r

end Sys2Proof.Machine
end

