-- ==== Sys2Proof/Machine/Alu.lean ====
section
/-! DEFINITION. Register load, arithmetic, logic, shift and random instructions (spec/42_alu.md). -/

namespace Sys2Proof.Machine

/-- R100. -/
def execLdImm (x : Reg) (kk : Byte) (s : State) : StepResult := .next (s.writeV x kk)

/-- R101: wraps, no flag. -/
def execAddImm (x : Reg) (kk : Byte) (s : State) : StepResult := .next (s.writeV x (s.readV x + kk))

/-- R102. -/
def execLdReg (x y : Reg) (s : State) : StepResult := .next (s.writeV x (s.readV y))

/-- R103. -/
def execOrReg (x y : Reg) (s : State) : StepResult := .next (s.writeV x (s.readV x ||| s.readV y))

/-- R104. -/
def execAndReg (x y : Reg) (s : State) : StepResult := .next (s.writeV x (s.readV x &&& s.readV y))

/-- R105. -/
def execXorReg (x y : Reg) (s : State) : StepResult := .next (s.writeV x (s.readV x ^^^ s.readV y))

/-- R106. -/
def execAddReg (x y : Reg) (s : State) : StepResult :=
  .next (s.writeResultFlag Config.vfWriteOrder x (s.readV x + s.readV y) (carryOf (s.readV x) (s.readV y)))

/-- R107. -/
def execSubReg (x y : Reg) (s : State) : StepResult :=
  .next (s.writeResultFlag Config.vfWriteOrder x (s.readV x - s.readV y) (noBorrowOf (s.readV x) (s.readV y)))

/-- R108: `V[x]` is shifted, not `V[y]`. -/
def execShr (x : Reg) (s : State) : StepResult :=
  .next (s.writeResultFlag Config.vfWriteOrder x (s.readV x >>> 1) (lowBitOf (s.readV x)))

/-- R109: sub with the operands swapped. -/
def execSubnReg (x y : Reg) (s : State) : StepResult :=
  .next (s.writeResultFlag Config.vfWriteOrder x (s.readV y - s.readV x) (noBorrowOf (s.readV y) (s.readV x)))

/-- R110. -/
def execShl (x : Reg) (s : State) : StepResult :=
  .next (s.writeResultFlag Config.vfWriteOrder x (s.readV x <<< 1) (highBitOf (s.readV x)))

/-- R111 for the random byte `r`. -/
def rndWith (r : Byte) (x : Reg) (kk : Byte) (s : State) : StepResult := .next (s.writeV x (r &&& kk))

/-- R111: the random byte is the free value of this draw (log 2). -/
def execRnd (x : Reg) (kk : Byte) (s : State) : StepResult :=
  rndWith (Config.randomByte s.draws) x kk s.countDraw

end Sys2Proof.Machine
end

