-- ==== Sys2Proof/Machine/ControlFlow.lean ====
section
/-! DEFINITION. Control-transfer instructions (spec/41_control_flow.md). Each meaning starts with `PC = a + 2`,
a the fetch address (R83). -/

namespace Sys2Proof.Machine

/-- R90. -/
def execRet (s : State) : StepResult := popAndJump s

/-- R91. -/
def execJp (addr : BitVec 12) (s : State) : StepResult := jumpTo (addrWord addr) s

/-- R92, with the `STACK_LIMIT` of this hardware. -/
def execCall (addr : BitVec 12) (s : State) : StepResult := pushAndJump Config.stackLimit (addrWord addr) s

/-- R93. -/
def execSeImm (x : Reg) (kk : Byte) (s : State) : StepResult := skipIf (s.readV x == kk) s

/-- R94. -/
def execSneImm (x : Reg) (kk : Byte) (s : State) : StepResult := skipIf (s.readV x != kk) s

/-- R95. -/
def execSeReg (x y : Reg) (s : State) : StepResult := skipIf (s.readV x == s.readV y) s

/-- R96. -/
def execSneReg (x y : Reg) (s : State) : StepResult := skipIf (s.readV x != s.readV y) s

/-- R97: no mask, no wrap. -/
def execJpV0 (addr : BitVec 12) (s : State) : StepResult := jumpTo (addrWord addr + byteWord (s.readV 0)) s

end Sys2Proof.Machine
end

