-- ==== Sys2Proof/Machine/Framebuffer.lean ====
section
/-! DEFINITION. The framebuffer engine and the afterglow pipeline (spec/44_display.md R132 to R139). -/

namespace Sys2Proof.Machine

/-- `Clear()` of R132: every pixel off. -/
def Framebuffer.clear : Framebuffer := Vector.replicate 32 (Vector.replicate 64 false)

/-- `FB[y][x]` for a column x and a row y of the grid; off outside it. -/
def Framebuffer.pixel (fb : Framebuffer) (x y : Nat) : Bool :=
  if h : x < 64 ∧ y < 32 then (fb[y]'h.2)[x]'h.1 else false

/-- `FB[y][x] <- b` for a pixel of the grid. -/
def Framebuffer.setPixel (fb : Framebuffer) (x y : Nat) (b : Bool) : Framebuffer :=
  if h : x < 64 ∧ y < 32 then fb.set y ((fb[y]'h.2).set x b h.1) h.2 else fb

/-- The framebuffer and the collision bit c of R133 while a sprite is drawn. -/
abbrev Drawing := Framebuffer × Bool

/-- One set source bit at (px, py): clipped (R134), else it counts for the collision when the pixel was on
(R135) and toggles it. -/
def plot (px py : Nat) (d : Drawing) : Drawing :=
  if px ≤ 63 ∧ py ≤ 31 then
    (Framebuffer.setPixel d.1 px py (!Framebuffer.pixel d.1 px py), d.2 || Framebuffer.pixel d.1 px py)
  else d

/-- The inner loop of R133 over the 8 column offsets; bit 7 is offset 0 (R136; log 11). -/
def drawRow (cx py : Nat) (row : Byte) (d : Drawing) : Drawing :=
  [0, 1, 2, 3, 4, 5, 6, 7].foldl (fun acc b => if row.getLsbD (7 - b) then plot (cx + b) py acc else acc) d

/-- The outer loop of R133 over the rows. -/
def drawRows (cx : Nat) : Nat → List Byte → Drawing → Drawing
  | _, [], d => d
  | py, row :: rows, d => drawRows cx (py + 1) rows (drawRow cx py row d)

/-- `DrawSprite(cx, cy, rows)` of R133: the framebuffer after it and the collision bit it returns. -/
def drawSprite (cx cy : Nat) (rows : List Byte) (fb : Framebuffer) : Drawing := drawRows cx cy rows (fb, false)

/-- The on-pixels of a snapshot as (column, row), row 0 first and within a row column 0 first (R139). -/
def onPixels (fb : Framebuffer) : List (Nat × Nat) :=
  fb.toList.zipIdx.flatMap (fun (row, y) => row.toList.zipIdx.filterMap (fun (b, x) => if b then some (x, y) else none))

/-- The `Frame` list of R137 for a history already appended to: oldest to newest, level `K - age` (R138). -/
def glow (cap : Nat) (hist : List Framebuffer) : List ((Nat × Nat) × Nat) :=
  hist.zipIdx.flatMap (fun (fb, j) => (onPixels fb).map (fun p => (p, cap - (hist.length - 1 - j))))

/-- The append and eviction of R137: the newest snapshot last, the oldest evicted past K. -/
def remember (cap : Nat) (hist : List Framebuffer) (fb : Framebuffer) : List Framebuffer :=
  if cap < (hist ++ [fb]).length then (hist ++ [fb]).tail else hist ++ [fb]

/-- `Composite()` of R137 for a given K. -/
def State.composite (cap : Nat) (s : State) : State :=
  (s.setHist (remember cap s.hist s.fb)).emit (.frame (glow cap (remember cap s.hist s.fb)))

/-- An event without the pixel list of a `Frame`: what a trace shows of R27 when the afterglow is left out (R140). -/
def Event.withoutPixels : Event → Event
  | .soundStart => .soundStart
  | .soundStop => .soundStop
  | .frame _ => .frame []
  | .diag word addr => .diag word addr
  | .fault cause addr info => .fault cause addr info

end Sys2Proof.Machine
end

