-- ==== Sys2Proof/Machine/Display.lean ====
section
/-! DEFINITION. Display instructions (spec/44_display.md R130, R131). -/

namespace Sys2Proof.Machine

/-- R130: HIST and VF are not touched. -/
def execCls (s : State) : StepResult := .next (s.setFb Framebuffer.clear)

/-- The drawing of R131: the n bytes from `I`, at the unreduced coordinates (`V[x]`, `V[y]`). -/
def State.drawing (s : State) (x y : Reg) (n : BitVec 4) : Drawing :=
  drawSprite (s.readV x).toNat (s.readV y).toNat (s.mem.readBytes s.i.toNat n.toNat) s.fb

/-- R131: the coordinates are read before VF is written, VF is the collision on every execution. -/
def execDrw (x y : Reg) (n : BitVec 4) (s : State) : StepResult :=
  withinMemory s.i.toNat n.toNat s
    (.next ((s.setFb (s.drawing x y n).1).writeFlag (s.drawing x y n).2))

end Sys2Proof.Machine
end

