-- ==== Sys2Proof/Machine/IndexMemory.lean ====
section
/-! DEFINITION. Index-register and memory instructions (spec/43_index_memory.md). None but R120, R121 and R122
writes `I` (R127). -/

namespace Sys2Proof.Machine

/-- R120. -/
def execLdI (addr : BitVec 12) (s : State) : StepResult := .next (s.setI (addrWord addr))

/-- R121 for a given `INDEX_BITS`: the addend is read before VF is overwritten. -/
def addIndex (bits : Nat) (x : Reg) (s : State) : StepResult :=
  .next ((s.setI (indexMasked bits s.i (s.readV x))).writeFlag (indexOverflow bits s.i (s.readV x)))

/-- R121, with the `INDEX_BITS` of this hardware. -/
def execAddI (x : Reg) (s : State) : StepResult := addIndex Config.indexBits x s

/-- R122. -/
def execLdF (x : Reg) (s : State) : StepResult := .next (s.setI (glyphAddr (s.readV x)))

/-- R123. -/
def execLdB (x : Reg) (s : State) : StepResult :=
  withinMemory s.i.toNat 3 s (.next (s.setMem (s.mem.writeBytes s.i.toNat (bcdDigits (s.readV x)))))

/-- R124. -/
def execStoreBlock (x : Reg) (s : State) : StepResult :=
  withinMemory s.i.toNat (blockCount x) s (.next (s.setMem (s.mem.writeBytes s.i.toNat (s.blockBytes x))))

/-- R125. -/
def execLoadBlock (x : Reg) (s : State) : StepResult :=
  withinMemory s.i.toNat (blockCount x) s (.next (s.loadBlockRegs s.i.toNat x))

end Sys2Proof.Machine
end

