-- ==== Sys2Proof/Machine/TimerKey.lean ====
section
/-! DEFINITION. Key and timer instructions (spec/45_timer_key.md). -/

namespace Sys2Proof.Machine

/-- R150. -/
def execSkp (x : Reg) (s : State) : StepResult := skipIf (s.isKeyDown (keyOf (s.readV x))) s

/-- R151. -/
def execSknp (x : Reg) (s : State) : StepResult := skipIf (!s.isKeyDown (keyOf (s.readV x))) s

/-- R152. -/
def execLdVxDT (x : Reg) (s : State) : StepResult := .next (s.writeV x s.dt)

/-- R153: arms the key-wait and ends; the suspension is `cpuStep`'s (R81), its end `keyDown`'s (R171). -/
def execLdVxK (x : Reg) (s : State) : StepResult := .next (s.armKeyWait x)

/-- R154. -/
def execLdDTVx (x : Reg) (s : State) : StepResult := .next (s.setDt (s.readV x))

/-- R155. -/
def execLdSTVx (x : Reg) (s : State) : StepResult := .next (s.setSt (s.readV x))

end Sys2Proof.Machine
end

