-- ==== Sys2Proof/Machine/Scheduler.lean ====
section
/-! DEFINITION. The scheduler (spec/60_exceptions.md R175 to R177, spec/40_step_cycle.md R87). -/

namespace Sys2Proof.Machine

/-- A down-counter that stops at 0 (R177). -/
def decTimer (b : Byte) : Byte := if b = 0 then 0 else b - 1

/-- `SoundUpdate()` of R176, sampling ST as it stands after the decrement (decision D11; log 11). -/
def State.soundUpdate (s : State) : State :=
  if s.st ≠ 0 ∧ s.snd = false then (s.setSnd true).emit .soundStart
  else if s.st = 0 ∧ s.snd = true then (s.setSnd false).emit .soundStop
  else s

/-- `Tick()` of R175 for a given K. -/
def State.tick (cap : Nat) (s : State) : State :=
  (((s.setDt (decTimer s.dt)).setSt (decTimer s.st)).soundUpdate).composite cap

/-- The counting of a `StepCall` that has not ended faulted, for given F and K (R80, R87). -/
def State.countCall (cadence cap : Nat) (s : State) : State :=
  if s.ctr + 1 = cadence then (s.setCtr 0).tick cap else s.setCtr (s.ctr + 1)

end Sys2Proof.Machine
end

