-- ==== Sys2Proof/Machine/Cycle.lean ====
section
/-! DEFINITION. The step cycle (spec/40_step_cycle.md R80 to R87): fetch, advance, dispatch, count. -/

namespace Sys2Proof.Machine

/-- The last address a word can be fetched from, 0xFFE (R82). -/
abbrev lastFetch : Nat := 0xFFE

/-- `Fetch(a)` of R82: the word at the program counter, none when its second byte would lie beyond 0xFFF. -/
def State.fetch (s : State) : Option Word :=
  if lastFetch < s.pc.toNat then none else some (s.mem.readWord s.pc.toNat)

/-- The advance of R83. -/
def State.advance (s : State) : State := s.setPc (s.pc + 2)

/-- Dispatch of a fetched word on the advanced state (R81, R84); an unknown word emits one `Diag` with the word
and its fetch address and changes nothing else (R85). -/
def dispatchWord (w : Word) (s : State) : StepResult :=
  match decodeWord w with
  | none => .next (s.advance.emit (.diag w s.pc))
  | some i => exec i s.advance

/-- `CpuStep` of R81. -/
def cpuStep (s : State) : StepResult :=
  if s.kwArmed then .next s
  else match s.fetch with
    | none => .next (s.takeFault .fetchOutOfBounds s.pc (s.pc.toNat + 1))
    | some w => dispatchWord w s

/-- The end of a `StepCall`: counted unless it ended faulted (R80, R86, R87). -/
def State.endCall (cadence cap : Nat) (s : State) : State := if s.faulted then s else s.countCall cadence cap

/-- `StepCall` of R80 for given F and K. -/
def stepCallWith (cadence cap : Nat) (s : State) : StepResult :=
  if s.faulted then .next s
  else match cpuStep s with
    | .next t => .next (t.endCall cadence cap)
    | .fault r => .fault r
    | .refused r => .refused r

/-- Where a word given from outside is put so that it is fetched next: `PC`, or 0x200 when no word can be fetched
at `PC`. -/
def State.fetchSlot (s : State) : Word := if lastFetch < s.pc.toNat then BitVec.ofNat 16 Config.progBase else s.pc

/-- The state in which the next `StepCall` fetches `w`: the word at the fetch slot (R46), no key-wait armed, no
fault recorded (R81, R166). -/
def State.placeWord (s : State) (w : Word) : State :=
  (((s.setMem (s.mem.writeBytes s.fetchSlot.toNat [hiByte w, loByte w])).setPc s.fetchSlot).disarmKeyWait).setFault
    FaultRecord.clear

end Sys2Proof.Machine
end

