-- ==== Sys2Proof/Machine/Step.lean ====
section
/-! DEFINITION. One step of the machine: `StepCall` of spec/40_step_cycle.md R80 with the F and K of `Config`. -/

namespace Sys2Proof.Machine

/-- `StepCall` (R80). -/
def step (s : State) : Host.Outcome State Fault Refusal := stepCallWith Config.cadence Config.historyCap s

/-- The state in which the next step fetches and runs the word `w` of the opcode table (log 12). -/
def State.withFetchWord (s : State) (nbits w : Nat) : State := s.placeWord (tableWord nbits w)

end Sys2Proof.Machine
end

