-- ==== Sys2Proof/Machine/HostOps.lean ====
section
/-! DEFINITION. The host's operations (spec/60_exceptions.md R170 to R172, spec/70_reset_and_hazards.md R200, R201).
`StepCall` is `step`; the other four are delivered between steps, one at a time (log 4). -/

namespace Sys2Proof.Machine

/-- `Reset()` of R200: every element to its value of R28; a falling edge of `sound_on` is a `SoundStop` (decision
D11; log 11). The output trace and the count of random draws are no state of R10 and go on (logs 2, 3). -/
def State.resetOp (s : State) : State :=
  { State.reset with trace := s.trace ++ (if s.snd then [.soundStop] else []), draws := s.draws }

/-- `LOAD_RESULT` of R27. -/
inductive LoadResult where
  | ok
  | programTooLarge
deriving DecidableEq, Repr

/-- `LoadProgram(bytes)` of R201: the size check first, then `Reset`, then the copy. -/
def loadProgram (bytes : List Byte) (s : State) : LoadResult × State :=
  if programWellFormed bytes then
    (.ok, s.resetOp.setMem (s.resetOp.mem.writeBytes Config.progBase bytes))
  else (.programTooLarge, s)

/-- The number of a key as a byte: `zext_8(k)` (R171). -/
def keyByte (k : Key) : Byte := BitVec.ofNat 8 k.val

/-- A pending key-wait is resolved once: `V[KW_REG] <- zext_8(k); KW_ARMED <- 0` (R171). -/
def State.resolveKeyWait (s : State) (k : Key) : State :=
  if s.kwArmed then (s.writeV s.kwReg (keyByte k)).disarmKeyWait else s

/-- `KeyDown(k)` of R171. -/
def State.keyDown (s : State) (k : Key) : State :=
  if s.faulted then s else (s.setKey k true).resolveKeyWait k

/-- `KeyUp(k)` of R172. -/
def State.keyUp (s : State) (k : Key) : State := if s.faulted then s else s.setKey k false

/-- The five operations of R170. The random byte of `StepCall(rnd)` is the free value of the draw (log 2). -/
inductive HostOp where
  | reset
  | loadProgram (bytes : List Byte)
  | stepCall
  | keyDown (k : Key)
  | keyUp (k : Key)
deriving DecidableEq, Repr

/-- One operation of the host; `loadProgram` alone also returns a `LoadResult`. -/
def applyOp (o : HostOp) (s : State) : StepResult :=
  match o with
  | .reset => .next s.resetOp
  | .loadProgram bytes => .next (Sys2Proof.Machine.loadProgram bytes s).2
  | .stepCall => step s
  | .keyDown k => .next (s.keyDown k)
  | .keyUp k => .next (s.keyUp k)

/-- A sequence of operations, each completed before the next (R170). -/
def runOps : List HostOp → State → StepResult
  | [], s => .next s
  | o :: ops, s =>
    match applyOp o s with
    | .next t => runOps ops t
    | .fault r => .fault r
    | .refused r => .refused r

end Sys2Proof.Machine
end

