-- ==== Sys2Proof/Machine/RunEnd.lean ====
section
/-! DEFINITION. The end of a run (spec/70_reset_and_hazards.md R212). The machine has no halt and no final state, and
R212 leaves it to a model to define the end: here a run is at its end in the first state that one of R212's three
stops holds in (log 17). -/

namespace Sys2Proof.Machine

/-- The three stops of R212. -/
inductive RunStop where
  /-- (a) the faulted state (R164) -/
  | faulted
  /-- (b) the key-wait: a hang unless a KeyDown comes (R153) -/
  | keyWait
  /-- (c) `JP a` standing at address a, a fixed point of the CPU state -/
  | selfJump
deriving DecidableEq, Repr

/-- The instruction standing at PC is the jump to PC itself (R91, R212 (c)). -/
def State.selfJump (s : State) : Bool := s.fetch.bind decodeWord == some (.jp (s.pc.setWidth 12))

/-- The stop of R212 the machine stands at, if any, in the order of the checks of R166. -/
def State.runStop (s : State) : Option RunStop :=
  if s.faulted then some .faulted
  else if s.kwArmed then some .keyWait
  else if s.selfJump then some .selfJump
  else none

/-- A good end: R212 calls the faulted state "never a good end" and the key-wait a hang. -/
def RunStop.good : RunStop → Bool
  | .faulted => false
  | .keyWait => false
  | .selfJump => true

/-- A run of exactly n StepCalls (R212: "the state after exactly N `StepCall`s"). -/
def runCalls (n : Nat) (s : State) : StepResult := runOps (List.replicate n .stepCall) s

/-- The run of StepCalls from s ends at t, in the stop c, after n calls: t is the first state with a stop (log 17). -/
def RunEnds (s : State) (n : Nat) (c : RunStop) (t : State) : Prop :=
  runCalls n s = .next t ∧ t.runStop = some c ∧ ∀ m < n, ∀ u, runCalls m s = .next u → u.runStop = none

/-- The run ends well: in a stop that is a good end (log 17). -/
def RunEndsWell (s : State) (n : Nat) (t : State) : Prop := ∃ c, RunEnds s n c t ∧ c.good = true

end Sys2Proof.Machine
end

