-- ==== Sys2Proof/Safety.lean ====
section
/-! DEFINITION. What a good state of the machine is, in the terms the statements use: no fault recorded
(spec/60_exceptions.md R164), and the relations between pieces of state that hold in every reachable state
(spec/10_state.md R29, spec/60_exceptions.md R160, R163). -/

namespace Sys2Proof.Machine

/-- R164: a run that recorded a fault did not run correctly. -/
def State.unfaulted (s : State) : Prop := s.fault.cause = .none

/-- R160, R163: the record and the program counter fit the cause. With this hardware's unbounded stack the cause
`StackOverflow` is never recorded. -/
def FaultFits (s : State) : Prop :=
  match s.fault.cause with
  | .none => s.fault.addr = 0 ∧ s.fault.info = 0
  | .emptyStack => s.pc = s.fault.addr + 2 ∧ s.fault.addr.toNat ≤ 0xFFE ∧ s.fault.info = 0 ∧ s.stack = []
  | .outOfBounds => s.pc = s.fault.addr + 2 ∧ s.fault.addr.toNat ≤ 0xFFE ∧ 0xFFF < s.fault.info
  | .fetchOutOfBounds => s.pc = s.fault.addr ∧ 0xFFE < s.pc.toNat ∧ s.fault.info = s.pc.toNat + 1
  | .stackOverflow => False

/-- The invariants of R29 (in the order given there) and of MEM's canonical form. -/
structure Inv (s : State) : Prop where
  memory    : s.mem.wf
  pcBound   : s.pc.toNat ≤ 0x10FE
  stack     : ∀ a ∈ s.stack, 2 ≤ a.toNat ∧ a.toNat ≤ 0x1000
  history   : s.hist.length ≤ Config.historyCap
  counter   : s.ctr < Config.cadence
  info      : s.fault.info < 2 ^ 17
  /-- KW_ARMED = 1 implies that the instruction before PC is `LD Vx,K` with x = KW_REG, and that it did not fault -/
  keyWait   : s.kwArmed = true → s.unfaulted ∧ 2 ≤ s.pc.toNat ∧ s.pc.toNat ≤ 0x1000 ∧
                decodeWord (s.mem.readWord (s.pc.toNat - 2)) = some (.ldVxK s.kwReg)
  faultFits : FaultFits s

/-! ## Frames -/

/-- Every byte of memory reads as before. -/
def KeepsMemory (s t : State) : Prop := ∀ a, t.mem.read a = s.mem.read a

/-- `t` is `s` but for V registers: every other register, the timers, the stack, the display, the keys, the fault
record, the trace and every byte of memory are unchanged. -/
def OnlyV (s t : State) : Prop := t = { s with v := t.v } ∧ KeepsMemory s t

/-- The register x alone may differ. -/
def OnlyVAt (x : Reg) (s t : State) : Prop := OnlyV s t ∧ ∀ r : Reg, r ≠ x → t.v[r] = s.v[r]

/-- The register x and VF alone may differ. -/
def OnlyVAtAndVF (x : Reg) (s t : State) : Prop := OnlyV s t ∧ ∀ r : Reg, r ≠ x → r ≠ VF → t.v[r] = s.v[r]

/-- The state a fault raised by the instruction before `PC` leaves (R163): `FAULT.addr` is `PC - 2` (log 13). -/
def faultEntry (c : Cause) (info : Nat) (s : State) : State :=
  { s with
    fault := { cause := c, addr := s.pc - 2, info := info }
    trace := s.trace ++ [.fault c (s.pc - 2) info] }

/-! ## Sprites -/

/-- The source bit of the sprite of `DRW Vx,Vy,n` that falls on the pixel (px, py), with no reduction of any coordinate
(R133, R134, decision D25) and bit 7 leftmost (R136, general knowledge G3; log 11). -/
def spriteHits (s : State) (x y : Reg) (n : BitVec 4) (px py : Nat) : Prop :=
  s.v[x].toNat ≤ px ∧ px < s.v[x].toNat + 8 ∧ s.v[y].toNat ≤ py ∧ py < s.v[y].toNat + n.toNat ∧
    (s.mem.read (s.i.toNat + (py - s.v[y].toNat))).getLsbD (7 - (px - s.v[x].toNat)) = true

end Sys2Proof.Machine
end

