-- ==== Sys2Proof/Certificates/Slice0/Obligations.lean ====
section
/-! DEFINITION. The statements about the machine. A word in a statement is written as a number from the encoding
of spec/30_encoding.md R64 (whose numerals are the spec's general-knowledge item G1; log 10). -/

open Sys2Proof Sys2Proof.Machine

/-! ## Encoding -/

/-- R60, R61, R64: encoding an instruction and decoding the bytes, with anything after them, gives it back. -/
def Obligations.DecodeEncodeRoundTrip : Prop :=
  ∀ (i : Instr) (rest : List Byte),
    decodeWord (encode i) = some i ∧ decode (encodeBytes i ++ rest) = .ok (i, rest)

/-- R64, R61: a word stands for an instruction exactly when its masked bits equal the row's match, with the operands
at the bit positions of R61. Exact matching is the spec's decision D15 (log 11). -/
def Obligations.OpcodeMapRows : Prop :=
  ∀ (w : Word) (x y : Reg) (kk : Byte) (addr : BitVec 12) (n : BitVec 4),
    x.val = w.toNat / 256 % 16 → y.val = w.toNat / 16 % 16 → kk.toNat = w.toNat % 256 →
    addr.toNat = w.toNat % 4096 → n.toNat = w.toNat % 16 →
    (w &&& 0xFFFF = 0x00E0 ↔ decodeWord w = some .cls) ∧
    (w &&& 0xFFFF = 0x00EE ↔ decodeWord w = some .ret) ∧
    (w &&& 0xF000 = 0x1000 ↔ decodeWord w = some (.jp addr)) ∧
    (w &&& 0xF000 = 0x2000 ↔ decodeWord w = some (.call addr)) ∧
    (w &&& 0xF000 = 0x3000 ↔ decodeWord w = some (.seImm x kk)) ∧
    (w &&& 0xF000 = 0x4000 ↔ decodeWord w = some (.sneImm x kk)) ∧
    (w &&& 0xF00F = 0x5000 ↔ decodeWord w = some (.seReg x y)) ∧
    (w &&& 0xF000 = 0x6000 ↔ decodeWord w = some (.ldImm x kk)) ∧
    (w &&& 0xF000 = 0x7000 ↔ decodeWord w = some (.addImm x kk)) ∧
    (w &&& 0xF00F = 0x8000 ↔ decodeWord w = some (.ldReg x y)) ∧
    (w &&& 0xF00F = 0x8001 ↔ decodeWord w = some (.orReg x y)) ∧
    (w &&& 0xF00F = 0x8002 ↔ decodeWord w = some (.andReg x y)) ∧
    (w &&& 0xF00F = 0x8003 ↔ decodeWord w = some (.xorReg x y)) ∧
    (w &&& 0xF00F = 0x8004 ↔ decodeWord w = some (.addReg x y)) ∧
    (w &&& 0xF00F = 0x8005 ↔ decodeWord w = some (.subReg x y)) ∧
    (w &&& 0xF00F = 0x8006 ↔ decodeWord w = some (.shr x)) ∧
    (w &&& 0xF00F = 0x8007 ↔ decodeWord w = some (.subnReg x y)) ∧
    (w &&& 0xF00F = 0x800E ↔ decodeWord w = some (.shl x)) ∧
    (w &&& 0xF00F = 0x9000 ↔ decodeWord w = some (.sneReg x y)) ∧
    (w &&& 0xF000 = 0xA000 ↔ decodeWord w = some (.ldI addr)) ∧
    (w &&& 0xF000 = 0xB000 ↔ decodeWord w = some (.jpV0 addr)) ∧
    (w &&& 0xF000 = 0xC000 ↔ decodeWord w = some (.rnd x kk)) ∧
    (w &&& 0xF000 = 0xD000 ↔ decodeWord w = some (.drw x y n)) ∧
    (w &&& 0xF0FF = 0xE09E ↔ decodeWord w = some (.skp x)) ∧
    (w &&& 0xF0FF = 0xE0A1 ↔ decodeWord w = some (.sknp x)) ∧
    (w &&& 0xF0FF = 0xF007 ↔ decodeWord w = some (.ldVxDT x)) ∧
    (w &&& 0xF0FF = 0xF00A ↔ decodeWord w = some (.ldVxK x)) ∧
    (w &&& 0xF0FF = 0xF015 ↔ decodeWord w = some (.ldDTVx x)) ∧
    (w &&& 0xF0FF = 0xF018 ↔ decodeWord w = some (.ldSTVx x)) ∧
    (w &&& 0xF0FF = 0xF01E ↔ decodeWord w = some (.addI x)) ∧
    (w &&& 0xF0FF = 0xF029 ↔ decodeWord w = some (.ldF x)) ∧
    (w &&& 0xF0FF = 0xF033 ↔ decodeWord w = some (.ldB x)) ∧
    (w &&& 0xF0FF = 0xF055 ↔ decodeWord w = some (.storeBlock x)) ∧
    (w &&& 0xF0FF = 0xF065 ↔ decodeWord w = some (.loadBlock x))

/-- The table of R66: which words are unknown; from bytes they are rejected by name, and the listing of R70 is empty
for them and for no other word. Exact matching is the spec's decision D15 (log 11). -/
def Obligations.UnknownWordsExactly : Prop :=
  ∀ (w : Word) (fam n kk : Nat), fam = w.toNat / 4096 → n = w.toNat % 16 → kk = w.toNat % 256 →
    ((decodeWord w = none) ↔
      (fam = 0x0 ∧ w.toNat ≠ 0x00E0 ∧ w.toNat ≠ 0x00EE) ∨
      (fam = 0x5 ∧ n ≠ 0) ∨
      (fam = 0x8 ∧ n ∈ [0x8, 0x9, 0xA, 0xB, 0xC, 0xD, 0xF]) ∨
      (fam = 0x9 ∧ n ≠ 0) ∨
      (fam = 0xE ∧ kk ∉ [0x9E, 0xA1]) ∨
      (fam = 0xF ∧ kk ∉ [0x07, 0x0A, 0x15, 0x18, 0x1E, 0x29, 0x33, 0x55, 0x65])) ∧
    (decodeWord w = none ↔
      ∀ rest, decode (BitVec.ofNat 8 (w.toNat / 256) :: BitVec.ofNat 8 w.toNat :: rest) =
        .error (.unknownInstruction w)) ∧
    (decodeWord w = none ↔ listing w = "")

/-- The encoder's word is the decoded word itself, but for the y field that R65 says SHR and SHL ignore. That the
encoder writes that field as 0 is the model's own choice (log 16); the spec has no encoder. -/
def Obligations.EncodeGivesBackDecodedWord : Prop :=
  ∀ (w : Word) (i : Instr), decodeWord w = some i →
    ((w &&& 0xF00F ≠ 0x8006 ∧ w &&& 0xF00F ≠ 0x800E) → encode i = w) ∧
    ((w &&& 0xF00F = 0x8006 ∨ w &&& 0xF00F = 0x800E) → encode i = w &&& 0xFF0F)

/-- R65: no word matches two rows of the opcode map, so no priority between rows is needed. -/
def Obligations.OpcodeRowsDisjoint : Prop :=
  ∀ (w : Word) (o p : Op), w &&& o.mask = o.pattern → w &&& p.mask = p.pattern → o = p

/-- Nineteen words, at least one of each of the 16 families, and four unknown ones, written out from R64 and the
vectors of spec/95_test_vectors.md section 2. -/
def Obligations.SampleWordsDecode : Prop :=
  decodeWord 0x00E0 = some .cls ∧ decodeWord 0x00EE = some .ret ∧ decodeWord 0x1ABC = some (.jp 0xABC) ∧
  decodeWord 0x2ABC = some (.call 0xABC) ∧ decodeWord 0x4A7F = some (.sneImm 0xA 0x7F) ∧
  decodeWord 0x6F37 = some (.ldImm 0xF 0x37) ∧ decodeWord 0x70FF = some (.addImm 0 0xFF) ∧
  decodeWord 0x9AB0 = some (.sneReg 0xA 0xB) ∧ decodeWord 0xB300 = some (.jpV0 0x300) ∧
  decodeWord 0x3A7F = some (.seImm 0xA 0x7F) ∧ decodeWord 0x5AB0 = some (.seReg 0xA 0xB) ∧
  decodeWord 0x5AB1 = none ∧ decodeWord 0x8AB7 = some (.subnReg 0xA 0xB) ∧ decodeWord 0x8AB8 = none ∧
  decodeWord 0x8ABE = some (.shl 0xA) ∧ decodeWord 0xA300 = some (.ldI 0x300) ∧
  decodeWord 0xC30F = some (.rnd 3 0x0F) ∧ decodeWord 0xD12F = some (.drw 1 2 15) ∧
  decodeWord 0xE19E = some (.skp 1) ∧ decodeWord 0xE19F = none ∧ decodeWord 0xF10A = some (.ldVxK 1) ∧
  decodeWord 0xF165 = some (.loadBlock 1) ∧ decodeWord 0xF166 = none

/-! ## The step cycle -/

/-- R80 to R84, R86: when the big-endian word at PC decodes to i, the step is i's meaning at the state with PC
advanced by 2, followed by the counting of the call unless the instruction faulted (that a faulting call is not
counted is the spec's decision D26; log 11). -/
def Obligations.StepRunsDecodedInstruction : Prop :=
  ∀ (s : State) (w : Word) (i : Instr),
    s.fault.cause = .none → s.kwArmed = false → s.pc.toNat ≤ 0xFFE →
    w.toNat = (s.mem.read s.pc.toNat).toNat * 256 + (s.mem.read (s.pc.toNat + 1)).toNat →
    decodeWord w = some i →
    ∃ t, exec i { s with pc := s.pc + 2 } = .next t ∧
      (t.fault.cause = .none → step s = .next (t.countCall Config.cadence Config.historyCap)) ∧
      (t.fault.cause ≠ .none → step s = .next t)

/-- R85: an unknown word advances PC by 2, emits one `Diag` with the word and its address, changes nothing else, and
the call is counted. The diagnostic's content and the counting are the spec's decisions D21 and D10 (log 11). -/
def Obligations.StepUnknownWordEmitsDiag : Prop :=
  ∀ (s : State) (w : Word),
    s.fault.cause = .none → s.kwArmed = false → s.pc.toNat ≤ 0xFFE →
    w.toNat = (s.mem.read s.pc.toNat).toNat * 256 + (s.mem.read (s.pc.toNat + 1)).toNat →
    decodeWord w = none →
    step s = .next (State.countCall Config.cadence Config.historyCap
      { s with pc := s.pc + 2, trace := s.trace ++ [.diag w s.pc] })

/-- R82, R86 (the spec's decisions D5, D7, D26; log 11): a fetch above 0xFFE records `FetchOutOfBounds` with the fetch
address and the address after it; PC is not advanced, the call is not counted, nothing else changes. -/
def Obligations.StepFetchBeyondMemoryFaults : Prop :=
  ∀ s : State, s.fault.cause = .none → s.kwArmed = false → 0xFFE < s.pc.toNat →
    Cause.code .fetchOutOfBounds = 3 ∧
    step s = .next { s with
      fault := { cause := .fetchOutOfBounds, addr := s.pc, info := s.pc.toNat + 1 }
      trace := s.trace ++ [.fault .fetchOutOfBounds s.pc (s.pc.toNat + 1)] }

/-- R164 (the spec's decisions D5, D20; log 11): on a faulted machine any number of StepCalls and any KeyDown and
KeyUp leave the whole state as it is. -/
def Obligations.FaultedMachineIsFrozen : Prop :=
  ∀ (s : State) (n : Nat) (k : Key), s.fault.cause ≠ .none →
    runOps (List.replicate n .stepCall) s = .next s ∧ s.keyDown k = s ∧ s.keyUp k = s

/-- R164, R165 (decisions D5, D20; log 11): only Reset and a LoadProgram that is not too large leave the faulted
state, and both do. -/
def Obligations.OnlyResetOrLoadLeavesFault : Prop :=
  ∀ (o : HostOp) (s t : State), s.fault.cause ≠ .none → applyOp o s = .next t →
    (t.fault.cause = .none ↔ o = .reset ∨ ∃ bytes, o = .loadProgram bytes ∧ bytes.length ≤ 0xE00)

/-- R81, R87: a StepCall with a key-wait armed fetches nothing; it is only counted (that it is counted is the spec's
decision D10; log 11), and V, I, PC, STACK, MEM, FB, KEY, the key-wait and FAULT stay. -/
def Obligations.StepSuspendedOnlyCounts : Prop :=
  ∀ s : State, s.fault.cause = .none → s.kwArmed = true →
    ∃ t, step s = .next t ∧ t = s.countCall Config.cadence Config.historyCap ∧
      t = { s with dt := t.dt, st := t.st, snd := t.snd, hist := t.hist, ctr := t.ctr, trace := t.trace }

/-- R87, R175, R176, R177: a counted call raises CTR by one; the F-th sets it to 0 and ticks: each timer above 0 falls
by exactly one, the sound latch follows the decremented ST with one event on each edge (decision D11; log 11), the
framebuffer enters the history and one `Frame` is emitted. -/
def Obligations.CountedCallTicksEveryFth : Prop :=
  ∀ (F K : Nat) (s : State),
    (s.ctr + 1 ≠ F → s.countCall F K = { s with ctr := s.ctr + 1 }) ∧
    (s.ctr + 1 = F → ∃ dt st : Byte, dt.toNat = s.dt.toNat - 1 ∧ st.toNat = s.st.toNat - 1 ∧
      s.countCall F K = { s with
        ctr := 0, dt := dt, st := st, snd := decide (0 < st.toNat), hist := remember K s.hist s.fb
        trace := s.trace ++
          (if 0 < st.toNat ∧ s.snd = false then [.soundStart]
           else if st.toNat = 0 ∧ s.snd = true then [.soundStop] else []) ++
          [.frame (glow K (remember K s.hist s.fb))] })

/-- R137, R138, R139 (level and order are the spec's decision D13; log 11): the history holds the last K snapshots,
the newest last; the frame names exactly the on-pixels of every retained snapshot, each with level K less its age,
oldest snapshot first and row-major within one. -/
def Obligations.CompositeEmitsAfterglow : Prop :=
  ∀ (K : Nat) (s : State), 1 ≤ K → s.hist.length ≤ K →
    ∃ (h : List Framebuffer) (out : List ((Nat × Nat) × Nat)),
      s.composite K = { s with hist := h, trace := s.trace ++ [.frame out] } ∧
      h = (s.hist ++ [s.fb]).drop (s.hist.length + 1 - K) ∧
      (∀ x y l, ((x, y), l) ∈ out ↔
        ∃ (j : Nat) (hj : j < h.length), x < 64 ∧ y < 32 ∧ Framebuffer.pixel h[j] x y = true ∧
          1 ≤ l ∧ l + (h.length - 1 - j) = K) ∧
      out.Pairwise (fun p q => p.2 < q.2 ∨
        (p.2 = q.2 ∧ (p.1.2 < q.1.2 ∨ (p.1.2 = q.1.2 ∧ p.1.1 < q.1.1))))

/-- R87, R175, R177 over n StepCalls of a machine that waits for a key, each of which is counted by the spec's decision
D10 (log 11): CTR counts modulo F, each timer has fallen by the number of ticks and stops at 0,
and V, I, PC, STACK, MEM, FB, KEY, the key-wait and FAULT are untouched. -/
def Obligations.TimersRunThroughKeyWait : Prop :=
  ∀ (n : Nat) (s : State), s.fault.cause = .none → s.kwArmed = true → s.ctr < Config.cadence →
    ∃ t, runOps (List.replicate n .stepCall) s = .next t ∧
      t.ctr = (s.ctr + n) % Config.cadence ∧
      t.dt.toNat = s.dt.toNat - (s.ctr + n) / Config.cadence ∧
      t.st.toNat = s.st.toNat - (s.ctr + n) / Config.cadence ∧
      t = { s with dt := t.dt, st := t.st, snd := t.snd, hist := t.hist, ctr := t.ctr, trace := t.trace }

/-- R24, R176: in a step SND changes only with a tick, to 1 with a `SoundStart` and to 0 with a `SoundStop`, and after
a tick it tells whether ST is above 0 (decision D11; log 11). -/
def Obligations.SoundChangesOnlyAtTick : Prop :=
  ∀ s t : State, step s = .next t →
    (t.snd ≠ s.snd → s.ctr + 1 = Config.cadence ∧
      ((t.snd = true ∧ t.st ≠ 0 ∧ Event.soundStart ∈ t.trace.drop s.trace.length) ∨
       (t.snd = false ∧ t.st = 0 ∧ Event.soundStop ∈ t.trace.drop s.trace.length))) ∧
    (s.fault.cause = .none → t.fault.cause = .none → s.ctr + 1 = Config.cadence → t.snd = decide (t.st ≠ 0))

/-- R140: the history is invisible to the program: a step from a state with any other history gives the same state but
for the history and the pixel lists of the Frames in the output trace. -/
def Obligations.HistoryInvisibleToProgram : Prop :=
  ∀ (s t : State) (h : List Framebuffer), step s = .next t →
    ∃ t', step { s with hist := h } = .next t' ∧ t = { t' with hist := t.hist, trace := t.trace } ∧
      t.trace.map Event.withoutPixels = t'.trace.map Event.withoutPixels

/-- No instruction and no step stops outside the state: each answers a next state. That a StepCall always terminates is
R80; that every fault is an entry into the faulted state, hence a next state, is the model's deduction from R163 and R164
(log 14). -/
def Obligations.EveryInstructionAndStepAnswersNext : Prop :=
  (∀ (i : Instr) (s : State), ∃ t, exec i s = .next t) ∧ (∀ s : State, ∃ t, step s = .next t)

/-! ## Invariants, reset and the host's operations -/

/-- R29, R160, R163 (derived by the spec; logs 9, 11): every step keeps the invariants `Inv`: canonical memory, bounds
of PC, of the return addresses, of HIST and CTR, the instruction before an armed key-wait, and a fault record that
fits its cause. -/
def Obligations.StepKeepsInvariants : Prop :=
  ∀ s t : State, Inv s → step s = .next t → Inv t

/-- The reset state meets the invariants `Inv` (R28, R29). -/
def Obligations.ResetMeetsInvariants : Prop := Inv State.reset

/-- R29, R170: whatever sequence of the five operations the host issues, the machine answers and `Inv` still holds. -/
def Obligations.OperationSequencesKeepInvariants : Prop :=
  ∀ (ops : List HostOp) (s : State), Inv s → ∃ t, runOps ops s = .next t ∧ Inv t

/-- The table of R28. The font bytes are the spec's general-knowledge values (R43; log 8); CTR, SND, FAULT and KW_REG
are its decisions D5, D11, D12, D23 (log 11); the trace is empty by R203. That an address above 0xFFF, where the spec has
no memory, reads as 0 is the model's choice (log 9). -/
def Obligations.ResetValues : Prop :=
  (∀ a, a < 0x50 → State.reset.mem.read a = Config.font.getD a 0) ∧ Config.font.length = 80 ∧
  (∀ a, 0x50 ≤ a → State.reset.mem.read a = 0) ∧
  (∀ r : Reg, State.reset.v[r] = 0) ∧ State.reset.i = 0 ∧ State.reset.pc = 0x200 ∧ State.reset.stack = [] ∧
  State.reset.dt = 0 ∧ State.reset.st = 0 ∧ (∀ x y, State.reset.fb.pixel x y = false) ∧ State.reset.hist = [] ∧
  (∀ k : Key, State.reset.keys[k] = false) ∧ State.reset.kwArmed = false ∧ State.reset.kwReg = 0 ∧
  State.reset.ctr = 0 ∧ State.reset.snd = false ∧
  State.reset.fault = { cause := .none, addr := 0, info := 0 } ∧ Cause.code .none = 0 ∧ State.reset.trace = []

/-- R204: after a Reset every element has its reset value, whatever it was, and a second Reset changes nothing and emits
nothing. That the first one emits a `SoundStop` when SND was 1 is the spec's decision D11 (R200; log 11), and that the
model's own trace and count of draws go on is the model's choice (logs 2, 3). -/
def Obligations.ResetIsIdempotent : Prop :=
  ∀ s : State,
    { s.resetOp with trace := State.reset.trace, draws := State.reset.draws } = State.reset ∧
    s.resetOp.trace = s.trace ++ (if s.snd = true then [.soundStop] else []) ∧
    s.resetOp.resetOp = s.resetOp

/-- R201 (order and effect of the rejected load: the spec's decision D19; log 11): a program of more than 0xE00 bytes is
rejected with no change at all; any other resets the machine and lies at 0x200, every other byte at its reset value. -/
def Obligations.LoadProgramCopiesOrRejects : Prop :=
  ∀ (bytes : List Byte) (s : State),
    (0xE00 < bytes.length → loadProgram bytes s = (.programTooLarge, s)) ∧
    (bytes.length ≤ 0xE00 → ∃ t, loadProgram bytes s = (.ok, t) ∧ t = { s.resetOp with mem := t.mem } ∧ t.mem.wf ∧
      (∀ j, j < bytes.length → t.mem.read (0x200 + j) = bytes.getD j 0) ∧
      (∀ a, (a < 0x200 ∨ 0x200 + bytes.length ≤ a) → t.mem.read a = State.reset.mem.read a))

/-- R202: after an accepted load the next step runs the program's first byte pair, with PC at 0x202;
a faulting call is not counted (the spec's decision D26; log 11). -/
def Obligations.LoadedProgramStartsAtItsFirstWord : Prop :=
  ∀ (hi lo : Byte) (rest : List Byte) (w : Word) (i : Instr) (s : State),
    (hi :: lo :: rest).length ≤ 0xE00 → w.toNat = hi.toNat * 256 + lo.toNat → decodeWord w = some i →
    ∃ t u, loadProgram (hi :: lo :: rest) s = (.ok, t) ∧ exec i { t with pc := 0x202 } = .next u ∧
      (u.fault.cause = .none → step t = .next (u.countCall Config.cadence Config.historyCap)) ∧
      (u.fault.cause ≠ .none → step t = .next u)

/-- R171: on a machine that is not faulted KeyDown sets the key's flag and, when a wait is armed, writes the key number
to the waiting register and disarms; nothing else changes. -/
def Obligations.KeyDownSetsFlagAndResolvesWait : Prop :=
  ∀ (k : Key) (s : State), s.fault.cause = .none →
    (∀ j : Key, (s.keyDown k).keys[j] = (if j = k then true else s.keys[j])) ∧
    (s.kwArmed = true → (s.keyDown k).v[s.kwReg].toNat = k.val ∧
      ∀ r : Reg, r ≠ s.kwReg → (s.keyDown k).v[r] = s.v[r]) ∧
    (s.kwArmed = false → (s.keyDown k).v = s.v) ∧
    s.keyDown k = { s with keys := (s.keyDown k).keys, v := (s.keyDown k).v, kwArmed := false }

/-- R172: on a machine that is not faulted KeyUp clears the key's flag and touches nothing else. -/
def Obligations.KeyUpClearsFlag : Prop :=
  ∀ (k : Key) (s : State), s.fault.cause = .none →
    (∀ j : Key, (s.keyUp k).keys[j] = (if j = k then false else s.keys[j])) ∧
    s.keyUp k = { s with keys := (s.keyUp k).keys }

/-- R22, R185: an armed key-wait ends only by a KeyDown on a machine that is not faulted, a Reset or an accepted
LoadProgram. That a faulted machine ignores KeyDown is the spec's decision D20 (log 11). -/
def Obligations.KeyWaitEndsOnlyByKeyDownOrReset : Prop :=
  ∀ (o : HostOp) (s t : State), s.kwArmed = true → applyOp o s = .next t → t.kwArmed = false →
    (s.fault.cause = .none ∧ ∃ k, o = .keyDown k) ∨ o = .reset ∨
      ∃ bytes, o = .loadProgram bytes ∧ bytes.length ≤ 0xE00

/-- R153, R171 (the property S7 of spec/95_test_vectors.md): the step that runs `LD Vx,K` arms the wait; any number of
later StepCalls leaves V and PC; the next KeyDown(k) leaves k in Vx, every other register as it was, PC at the
instruction after, and the wait over. -/
def Obligations.KeyWaitProtocol : Prop :=
  ∀ (s : State) (w : Word) (x : Reg) (n : Nat) (k : Key),
    s.fault.cause = .none → s.kwArmed = false → s.pc.toNat ≤ 0xFFE →
    w.toNat = (s.mem.read s.pc.toNat).toNat * 256 + (s.mem.read (s.pc.toNat + 1)).toNat →
    decodeWord w = some (.ldVxK x) →
    ∃ t u, runOps (List.replicate (n + 1) .stepCall) s = .next t ∧
      t.kwArmed = true ∧ t.kwReg = x ∧ t.v = s.v ∧ t.pc = s.pc + 2 ∧ KeepsMemory s t ∧
      runOps (List.replicate (n + 1) .stepCall ++ [.keyDown k]) s = .next u ∧
      u.v[x].toNat = k.val ∧ (∀ r : Reg, r ≠ x → u.v[r] = s.v[r]) ∧ u.kwArmed = false ∧ u.pc = s.pc + 2

/-! ## Whole-machine rules -/

/-- Which instruction can change which state, in any state: V, I, PC, STACK, MEM, DT, ST, FB, KEY and the key-wait by the
access matrix R30, a summary the spec derives; FAULT, and with it the trace, by R162. There `CALL` raises nothing because
the stack is unbounded (the spec's decision D3; log 6), and `RET`, `LD B,Vx` and `DRW` raise by its decisions D4 and D6
(log 11). The trace (R27; log 3) and the count of draws (log 2) are fields of the model. -/
def Obligations.WhichInstructionWritesWhat : Prop :=
  ∀ (i : Instr) (s t : State), exec i s = .next t →
    (∀ r : Reg, t.v[r] ≠ s.v[r] →
      (∃ kk, i = .ldImm r kk ∨ i = .addImm r kk ∨ i = .rnd r kk) ∨
      (∃ y, i = .ldReg r y ∨ i = .orReg r y ∨ i = .andReg r y ∨ i = .xorReg r y ∨ i = .addReg r y ∨ i = .subReg r y ∨
        i = .subnReg r y) ∨
      i = .shr r ∨ i = .shl r ∨ i = .ldVxDT r ∨ (∃ x, i = .loadBlock x ∧ r ≤ x) ∨
      (r = VF ∧ ∃ x, i = .shr x ∨ i = .shl x ∨ i = .addI x ∨
        (∃ y, i = .addReg x y ∨ i = .subReg x y ∨ i = .subnReg x y) ∨ ∃ y n, i = .drw x y n)) ∧
    (t.i ≠ s.i → ∃ x, (∃ a, i = .ldI a) ∨ i = .addI x ∨ i = .ldF x) ∧
    (t.pc ≠ s.pc → i = .ret ∨ (∃ a, i = .jp a ∨ i = .call a ∨ i = .jpV0 a) ∨
      (∃ x kk, i = .seImm x kk ∨ i = .sneImm x kk) ∨ (∃ x y, i = .seReg x y ∨ i = .sneReg x y) ∨
      ∃ x, i = .skp x ∨ i = .sknp x) ∧
    (t.stack ≠ s.stack → i = .ret ∨ ∃ a, i = .call a) ∧
    (t.mem ≠ s.mem → ∃ x, i = .ldB x ∨ i = .storeBlock x) ∧
    (t.dt ≠ s.dt → ∃ x, i = .ldDTVx x) ∧
    (t.st ≠ s.st → ∃ x, i = .ldSTVx x) ∧
    (t.fb ≠ s.fb → i = .cls ∨ ∃ x y n, i = .drw x y n) ∧
    ((t.kwArmed ≠ s.kwArmed ∨ t.kwReg ≠ s.kwReg) → ∃ x, i = .ldVxK x) ∧
    ((t.fault ≠ s.fault ∨ t.trace ≠ s.trace) →
      i = .ret ∨ (∃ x, i = .ldB x ∨ i = .storeBlock x ∨ i = .loadBlock x) ∨ ∃ x y n, i = .drw x y n) ∧
    (t.draws ≠ s.draws → ∃ x kk, i = .rnd x kk) ∧
    t.hist = s.hist ∧ t.keys = s.keys ∧ t.ctr = s.ctr ∧ t.snd = s.snd

/-- R12 (for x = 0xF in the five ALU instructions: flag last, the spec's decision D8; log 7): the seven flag-writing
instructions leave 0 or 1 in VF on every execution that does not fault; every other instruction changes VF only as its
destination register. -/
def Obligations.VfIsWrittenAsFlagBySevenOnly : Prop :=
  (∀ (x y : Reg) (n : BitVec 4) (s : State), ∀ i ∈ [Instr.addReg x y, .subReg x y, .shr x, .subnReg x y, .shl x,
      .addI x, .drw x y n], ∃ t, exec i s = .next t ∧
        (t.fault = s.fault → t.trace = s.trace → t.v[VF] = 0 ∨ t.v[VF] = 1)) ∧
  (∀ (i : Instr) (s t : State), exec i s = .next t → t.v[VF] ≠ s.v[VF] →
    (∃ (x y : Reg) (n : BitVec 4), i ∈ [Instr.addReg x y, .subReg x y, .shr x, .subnReg x y, .shl x, .addI x, .drw x y n]) ∨
    (∃ (y : Reg) (kk : Byte), i ∈ [Instr.ldImm VF kk, .addImm VF kk, .rnd VF kk, .ldReg VF y, .orReg VF y, .andReg VF y,
      .xorReg VF y, .ldVxDT VF, .loadBlock VF]))

/-- R212: at each of its three stops any number of StepCalls leaves V, I, PC, STACK, MEM, FB, KEY, the key-wait and FAULT
as they are, and the stop stays; a faulted machine is left whole. Only the host leaves a stop (R164, R171, R185, R200,
R201): by a Reset or an accepted LoadProgram, at a key-wait by a KeyDown too. The three stops are the rule's; that a run
is at its end in them is the model's definition (log 17). The fault mechanism, the frozen faulted machine and the counting
of a waiting one are the spec's decisions D5, D20 and D10 (log 11). -/
def Obligations.StopsStandStill : Prop :=
  (∀ (n : Nat) (s : State) (c : RunStop), s.runStop = some c →
    ∃ t, runCalls n s = .next t ∧ t.runStop = some c ∧ (c = .faulted → t = s) ∧
      t = { s with dt := t.dt, st := t.st, snd := t.snd, hist := t.hist, ctr := t.ctr, trace := t.trace }) ∧
  (∀ (o : HostOp) (s t : State) (c : RunStop), s.runStop = some c → applyOp o s = .next t → t.runStop ≠ some c →
    (c = .keyWait ∧ ∃ k, o = .keyDown k) ∨ o = .reset ∨
      ∃ bytes, o = .loadProgram bytes ∧ bytes.length ≤ 0xE00)

/-- R212: once max(255, K) ticks have gone by at the jump to itself (or in a key-wait), the timers and the sound are off,
HIST holds K copies of the framebuffer and the whole state (the trace is no state, R10; log 3) repeats with period F.
It rests on the spec's decisions D10 and D11 (log 11) and on the free F and K (log 1). -/
def Obligations.StoppedMachineBecomesPeriodic : Prop :=
  ∀ (n : Nat) (s : State) (c : RunStop), s.runStop = some c → c ≠ .faulted →
    s.ctr < Config.cadence → s.hist.length ≤ Config.historyCap → max 255 Config.historyCap * Config.cadence ≤ n →
    ∃ t u, runCalls n s = .next t ∧ t.dt = 0 ∧ t.st = 0 ∧ t.snd = false ∧
      t.hist = List.replicate Config.historyCap s.fb ∧
      runCalls (n + Config.cadence) s = .next u ∧ u = { t with trace := u.trace }

/-- The model's definition of the end of a run (R212 asks for one; log 17): a run of StepCalls has at most one end, and it
ends well exactly when the first stop it meets is the jump to itself: not faulted, not waiting, and the word at PC
decodes to the jump to PC. -/
def Obligations.RunHasOneEnd : Prop :=
  (∀ (s : State) (m n : Nat) (b c : RunStop) (t u : State), RunEnds s m b t → RunEnds s n c u → m = n ∧ b = c ∧ t = u) ∧
  (∀ (s : State) (n : Nat) (t : State), RunEndsWell s n t ↔
    (runCalls n s = .next t ∧ t.fault.cause = .none ∧ t.kwArmed = false ∧ t.pc.toNat ≤ 0xFFE ∧
      (∃ a : BitVec 12, a.toNat = t.pc.toNat ∧ decodeWord (t.mem.readWord t.pc.toNat) = some (.jp a)) ∧
      ∀ m < n, ∀ u, runCalls m s = .next u → u.runStop = none))

/-- Equal memories are equal data (log 9): two memories in canonical form that read alike at every address are the same
list. -/
def Obligations.CanonicalMemoriesReadingAlikeAreEqual : Prop :=
  ∀ m m' : Memory, m.wf → m'.wf → (∀ a, m.read a = m'.read a) → m = m'

/-! ## Control flow -/

/-- R91: PC becomes the 12-bit address, and only a target above 0xFFE cannot be fetched from next; nothing else
changes. -/
def Obligations.JumpSetsPc : Prop :=
  ∀ (addr : BitVec 12) (s : State),
    decodeWord (BitVec.ofNat 16 (0x1000 + addr.toNat)) = some (.jp addr) ∧
    ∃ t, exec (.jp addr) s = .next t ∧ t.pc.toNat = addr.toNat ∧ (t.fetch = none ↔ 0xFFE < addr.toNat) ∧
      t = { s with pc := t.pc } ∧ KeepsMemory s t

/-- R92 with the unbounded stack of this hardware (decision D3; log 6): the advanced PC is pushed and PC becomes the
address; no stack is too deep. -/
def Obligations.CallPushesReturnAddress : Prop :=
  ∀ (addr : BitVec 12) (s : State),
    decodeWord (BitVec.ofNat 16 (0x2000 + addr.toNat)) = some (.call addr) ∧
    ∃ t, exec (.call addr) s = .next t ∧ t.stack = s.stack ++ [s.pc] ∧ t.pc.toNat = addr.toNat ∧
      t = { s with pc := t.pc, stack := t.stack } ∧ KeepsMemory s t

/-- R92 for a finite STACK_LIMIT (decision D3; log 6): a call on a full stack records `StackOverflow`, code 4, and
changes nothing else. -/
def Obligations.CallOnFullStackOverflows : Prop :=
  ∀ (limit : Nat) (w : Word) (s : State),
    (s.stack.length = limit → pushAndJump (some limit) w s = .next (faultEntry .stackOverflow 0 s)) ∧
    (s.stack.length ≠ limit → pushAndJump (some limit) w s = .next { s with pc := w, stack := s.stack ++ [s.pc] }) ∧
    Cause.code .stackOverflow = 4

/-- R90: the most recently pushed address is popped into PC; with an empty stack (decision D4; log 11) `EmptyStack`,
code 1, is recorded and nothing else changes. -/
def Obligations.ReturnPopsIntoPc : Prop :=
  decodeWord 0x00EE = some .ret ∧ Cause.code .emptyStack = 1 ∧
  ∀ (s : State),
    (∀ (rest : List Word) (a : Word), s.stack = rest ++ [a] →
      exec .ret s = .next { s with pc := a, stack := rest }) ∧
    (s.stack = [] → exec .ret s = .next (faultEntry .emptyStack 0 s))

/-- R93, R94: the skips on an immediate add 2 to the advanced PC exactly when the register equals (differs from) kk;
nothing else changes. -/
def Obligations.SkipOnImmediate : Prop :=
  ∀ (x : Reg) (kk : Byte) (s : State),
    decodeWord (BitVec.ofNat 16 (0x3000 + x.val * 256 + kk.toNat)) = some (.seImm x kk) ∧
    decodeWord (BitVec.ofNat 16 (0x4000 + x.val * 256 + kk.toNat)) = some (.sneImm x kk) ∧
    exec (.seImm x kk) s = .next { s with pc := if s.v[x].toNat = kk.toNat then s.pc + 2 else s.pc } ∧
    exec (.sneImm x kk) s = .next { s with pc := if s.v[x].toNat = kk.toNat then s.pc else s.pc + 2 }

/-- R95, R96: the skips on two registers, an unconditional skip and no skip when x = y. -/
def Obligations.SkipOnRegisters : Prop :=
  ∀ (x y : Reg) (s : State),
    decodeWord (BitVec.ofNat 16 (0x5000 + x.val * 256 + y.val * 16)) = some (.seReg x y) ∧
    decodeWord (BitVec.ofNat 16 (0x9000 + x.val * 256 + y.val * 16)) = some (.sneReg x y) ∧
    exec (.seReg x y) s = .next { s with pc := if s.v[x].toNat = s.v[y].toNat then s.pc + 2 else s.pc } ∧
    exec (.sneReg x y) s = .next { s with pc := if s.v[x].toNat = s.v[y].toNat then s.pc else s.pc + 2 } ∧
    exec (.seReg x x) s = .next { s with pc := s.pc + 2 } ∧ exec (.sneReg x x) s = .next s

/-- R97: PC becomes addr + V0, a sum that no mask reduces; nothing else changes. That the next fetch fails for a sum above
0xFFE, and for no other, is the bound of R82 (the spec's decision D7; log 11). -/
def Obligations.JumpV0AddsOffset : Prop :=
  ∀ (addr : BitVec 12) (s : State),
    decodeWord (BitVec.ofNat 16 (0xB000 + addr.toNat)) = some (.jpV0 addr) ∧
    ∃ t, exec (.jpV0 addr) s = .next t ∧ t.pc.toNat = addr.toNat + s.v[(0 : Reg)].toNat ∧
      (t.fetch = none ↔ 0xFFE < addr.toNat + s.v[(0 : Reg)].toNat) ∧ t = { s with pc := t.pc } ∧ KeepsMemory s t

/-! ## Arithmetic and logic -/

/-- R100, R101, R102: the two loads and the immediate add modulo 256; no flag, nothing but Vx changes. -/
def Obligations.LoadsAndImmediateAdd : Prop :=
  ∀ (x y : Reg) (kk : Byte) (s : State),
    decodeWord (BitVec.ofNat 16 (0x6000 + x.val * 256 + kk.toNat)) = some (.ldImm x kk) ∧
    decodeWord (BitVec.ofNat 16 (0x7000 + x.val * 256 + kk.toNat)) = some (.addImm x kk) ∧
    decodeWord (BitVec.ofNat 16 (0x8000 + x.val * 256 + y.val * 16)) = some (.ldReg x y) ∧
    (∃ t, exec (.ldImm x kk) s = .next t ∧ t.v[x] = kk ∧ OnlyVAt x s t) ∧
    (∃ t, exec (.addImm x kk) s = .next t ∧ t.v[x].toNat = (s.v[x].toNat + kk.toNat) % 256 ∧ OnlyVAt x s t) ∧
    (∃ t, exec (.ldReg x y) s = .next t ∧ t.v[x] = s.v[y] ∧ OnlyVAt x s t)

/-- R103, R104, R105: or, and, exclusive or of every bit; no flag, nothing but Vx changes. -/
def Obligations.BitwiseLogic : Prop :=
  ∀ (x y : Reg) (s : State),
    decodeWord (BitVec.ofNat 16 (0x8001 + x.val * 256 + y.val * 16)) = some (.orReg x y) ∧
    decodeWord (BitVec.ofNat 16 (0x8002 + x.val * 256 + y.val * 16)) = some (.andReg x y) ∧
    decodeWord (BitVec.ofNat 16 (0x8003 + x.val * 256 + y.val * 16)) = some (.xorReg x y) ∧
    (∃ t, exec (.orReg x y) s = .next t ∧
      (∀ b, t.v[x].getLsbD b = (s.v[x].getLsbD b || s.v[y].getLsbD b)) ∧ OnlyVAt x s t) ∧
    (∃ t, exec (.andReg x y) s = .next t ∧
      (∀ b, t.v[x].getLsbD b = (s.v[x].getLsbD b && s.v[y].getLsbD b)) ∧ OnlyVAt x s t) ∧
    (∃ t, exec (.xorReg x y) s = .next t ∧
      (∀ b, t.v[x].getLsbD b = Bool.xor (s.v[x].getLsbD b) (s.v[y].getLsbD b)) ∧ OnlyVAt x s t)

/-- R106: the sum modulo 256 and the carry; for x = 0xF VF ends as the carry (flag last, decision D8; log 7). -/
def Obligations.AddSetsSumAndCarry : Prop :=
  ∀ (x y : Reg) (s : State),
    decodeWord (BitVec.ofNat 16 (0x8004 + x.val * 256 + y.val * 16)) = some (.addReg x y) ∧
    ∃ t, exec (.addReg x y) s = .next t ∧
      (x ≠ VF → t.v[x].toNat = (s.v[x].toNat + s.v[y].toNat) % 256) ∧
      t.v[VF] = (if 255 < s.v[x].toNat + s.v[y].toNat then 1 else 0) ∧ OnlyVAtAndVF x s t

/-- R107, R109: the differences Vx - Vy and Vy - Vx modulo 256 and the inverse of borrow, 1 for equal operands; for
x = 0xF VF ends as the flag (flag last, decision D8; log 7). -/
def Obligations.SubtractSetsDifferenceAndNoBorrow : Prop :=
  ∀ (x y : Reg) (s : State),
    decodeWord (BitVec.ofNat 16 (0x8005 + x.val * 256 + y.val * 16)) = some (.subReg x y) ∧
    decodeWord (BitVec.ofNat 16 (0x8007 + x.val * 256 + y.val * 16)) = some (.subnReg x y) ∧
    (∃ t, exec (.subReg x y) s = .next t ∧
      (x ≠ VF → t.v[x].toNat = (s.v[x].toNat + 256 - s.v[y].toNat) % 256) ∧
      t.v[VF] = (if s.v[y].toNat ≤ s.v[x].toNat then 1 else 0) ∧ OnlyVAtAndVF x s t) ∧
    (∃ t, exec (.subnReg x y) s = .next t ∧
      (x ≠ VF → t.v[x].toNat = (s.v[y].toNat + 256 - s.v[x].toNat) % 256) ∧
      t.v[VF] = (if s.v[x].toNat ≤ s.v[y].toNat then 1 else 0) ∧ OnlyVAtAndVF x s t)

/-- R108, R110: the shifts of Vx by one place, whatever the y field of the word, and the bit shifted out; for x = 0xF VF
ends as the flag (flag last, decision D8; log 7). -/
def Obligations.ShiftsMoveOneBit : Prop :=
  ∀ (x y : Reg) (s : State),
    decodeWord (BitVec.ofNat 16 (0x8006 + x.val * 256 + y.val * 16)) = some (.shr x) ∧
    decodeWord (BitVec.ofNat 16 (0x800E + x.val * 256 + y.val * 16)) = some (.shl x) ∧
    (∃ t, exec (.shr x) s = .next t ∧ (x ≠ VF → t.v[x].toNat = s.v[x].toNat / 2) ∧
      t.v[VF].toNat = s.v[x].toNat % 2 ∧ OnlyVAtAndVF x s t) ∧
    (∃ t, exec (.shl x) s = .next t ∧ (x ≠ VF → t.v[x].toNat = s.v[x].toNat * 2 % 256) ∧
      t.v[VF].toNat = s.v[x].toNat / 128 ∧ OnlyVAtAndVF x s t)

/-- R111: Vx becomes the free random byte of this draw and kk (log 2: the byte is free, the count of draws is the
model's own); every bit that is 0 in kk is 0 in Vx, whatever the byte; no flag, nothing else changes. -/
def Obligations.RandomMasksFreeByte : Prop :=
  ∀ (x : Reg) (kk : Byte) (s : State),
    decodeWord (BitVec.ofNat 16 (0xC000 + x.val * 256 + kk.toNat)) = some (.rnd x kk) ∧
    ∃ t, exec (.rnd x kk) s = .next t ∧ t.v[x] = Config.randomByte s.draws &&& kk ∧
      (∀ b, kk.getLsbD b = false → t.v[x].getLsbD b = false) ∧ (∀ r : Reg, r ≠ x → t.v[r] = s.v[r]) ∧
      t = { s with v := t.v, draws := s.draws + 1 } ∧ KeepsMemory s t

/-! ## Index register and memory -/

/-- R120, R122: I becomes the address, or five times the whole register value; nothing else changes. -/
def Obligations.IndexLoads : Prop :=
  ∀ (addr : BitVec 12) (x : Reg) (s : State),
    decodeWord (BitVec.ofNat 16 (0xA000 + addr.toNat)) = some (.ldI addr) ∧
    decodeWord (BitVec.ofNat 16 (0xF029 + x.val * 256)) = some (.ldF x) ∧
    (∃ t, exec (.ldI addr) s = .next t ∧ t.i.toNat = addr.toNat ∧ t = { s with i := t.i } ∧ KeepsMemory s t) ∧
    (∃ t, exec (.ldF x) s = .next t ∧ t.i.toNat = s.v[x].toNat * 5 ∧ t = { s with i := t.i } ∧ KeepsMemory s t)

/-- R121 with INDEX_BITS = 16 (decision D2; log 5): I and the old Vx are added modulo 2^16 and VF tells whether the sum
exceeds 0xFFFF, also for x = 0xF. -/
def Obligations.AddIndexSetsOverflow : Prop :=
  ∀ (x : Reg) (s : State),
    decodeWord (BitVec.ofNat 16 (0xF01E + x.val * 256)) = some (.addI x) ∧
    ∃ t, exec (.addI x) s = .next t ∧ t.i.toNat = (s.i.toNat + s.v[x].toNat) % 65536 ∧
      t.v[VF] = (if 0xFFFF < s.i.toNat + s.v[x].toNat then 1 else 0) ∧
      (∀ r : Reg, r ≠ VF → t.v[r] = s.v[r]) ∧ t = { s with i := t.i, v := t.v } ∧ KeepsMemory s t

/-- R123: the three decimal digits go to I, I + 1, I + 2, hundreds first; no other byte and no register changes. The
premise `mem.wf` is the invariant of `StepKeepsInvariants`. -/
def Obligations.BcdStoresThreeDigits : Prop :=
  ∀ (x : Reg) (s : State),
    decodeWord (BitVec.ofNat 16 (0xF033 + x.val * 256)) = some (.ldB x) ∧
    (s.mem.wf → s.i.toNat + 2 ≤ 0xFFF → ∃ t, exec (.ldB x) s = .next t ∧
      (t.mem.read s.i.toNat).toNat = s.v[x].toNat / 100 ∧
      (t.mem.read (s.i.toNat + 1)).toNat = s.v[x].toNat / 10 % 10 ∧
      (t.mem.read (s.i.toNat + 2)).toNat = s.v[x].toNat % 10 ∧
      (∀ a, (a < s.i.toNat ∨ s.i.toNat + 2 < a) → t.mem.read a = s.mem.read a) ∧
      t.mem.wf ∧ t = { s with mem := t.mem })

/-- R124: V0..Vx go to I..I + x; no other byte and no register (I among them) changes. The premise `mem.wf` is the
invariant of `StepKeepsInvariants`. -/
def Obligations.StoreBlockCopiesRegisters : Prop :=
  ∀ (x : Reg) (s : State),
    decodeWord (BitVec.ofNat 16 (0xF055 + x.val * 256)) = some (.storeBlock x) ∧
    (s.mem.wf → s.i.toNat + x.val ≤ 0xFFF → ∃ t, exec (.storeBlock x) s = .next t ∧
      (∀ j : Reg, j.val ≤ x.val → t.mem.read (s.i.toNat + j.val) = s.v[j]) ∧
      (∀ a, (a < s.i.toNat ∨ s.i.toNat + x.val < a) → t.mem.read a = s.mem.read a) ∧
      t.mem.wf ∧ t = { s with mem := t.mem })

/-- R125: V0..Vx are loaded from I..I + x; registers above x, I and every other piece of state stay. -/
def Obligations.LoadBlockFillsRegisters : Prop :=
  ∀ (x : Reg) (s : State),
    decodeWord (BitVec.ofNat 16 (0xF065 + x.val * 256)) = some (.loadBlock x) ∧
    (s.i.toNat + x.val ≤ 0xFFF → ∃ t, exec (.loadBlock x) s = .next t ∧
      (∀ j : Reg, j.val ≤ x.val → t.v[j] = s.mem.read (s.i.toNat + j.val)) ∧
      (∀ j : Reg, x.val < j.val → t.v[j] = s.v[j]) ∧ OnlyV s t)

/-- R45, R123, R124, R125, R131 (decisions D5, D6; logs 11, 13): a data access whose highest address is above 0xFFF
records `OutOfBounds`, code 2, with that address, and moves no byte and writes no register. -/
def Obligations.DataBeyondMemoryFaults : Prop :=
  Cause.code .outOfBounds = 2 ∧
  ∀ (x y : Reg) (n : BitVec 4) (s : State),
    (0xFFF < s.i.toNat + 2 → exec (.ldB x) s = .next (faultEntry .outOfBounds (s.i.toNat + 2) s)) ∧
    (0xFFF < s.i.toNat + x.val →
      exec (.storeBlock x) s = .next (faultEntry .outOfBounds (s.i.toNat + x.val) s) ∧
      exec (.loadBlock x) s = .next (faultEntry .outOfBounds (s.i.toNat + x.val) s)) ∧
    (0 < n.toNat → 0xFFF < s.i.toNat + n.toNat - 1 →
      exec (.drw x y n) s = .next (faultEntry .outOfBounds (s.i.toNat + n.toNat - 1) s))

/-! ## Display -/

/-- R130 with R132: every pixel is off; HIST, VF and everything else stay. What R130 says of later frames lies in HIST and in
`CompositeEmitsAfterglow`, not here. -/
def Obligations.ClearScreenTurnsPixelsOff : Prop :=
  decodeWord 0x00E0 = some .cls ∧
  ∀ s : State, ∃ t, exec .cls s = .next t ∧ (∀ x y, t.fb.pixel x y = false) ∧ t = { s with fb := t.fb } ∧
    KeepsMemory s t

/-- R131, R133 to R136 (no reduction of the start: the spec's decision D25; bit 7 leftmost: G3; log 11): every pixel of
the grid that a source bit hits is toggled and no other; VF is 1 exactly when one
of them was on, else 0, for n = 0 and for a sprite off the grid too; nothing else changes. -/
def Obligations.DrawTogglesPixelsAndSetsCollision : Prop :=
  ∀ (x y : Reg) (n : BitVec 4) (s : State),
    decodeWord (BitVec.ofNat 16 (0xD000 + x.val * 256 + y.val * 16 + n.toNat)) = some (.drw x y n) ∧
    ((n.toNat = 0 ∨ s.i.toNat + n.toNat - 1 ≤ 0xFFF) → ∃ t, exec (.drw x y n) s = .next t ∧
      (∀ px py, px < 64 → py < 32 →
        (spriteHits s x y n px py → t.fb.pixel px py = !s.fb.pixel px py) ∧
        (¬spriteHits s x y n px py → t.fb.pixel px py = s.fb.pixel px py)) ∧
      ((∃ px py, px < 64 ∧ py < 32 ∧ spriteHits s x y n px py ∧ s.fb.pixel px py = true) → t.v[VF] = 1) ∧
      ((¬∃ px py, px < 64 ∧ py < 32 ∧ spriteHits s x y n px py ∧ s.fb.pixel px py = true) → t.v[VF] = 0) ∧
      (∀ r : Reg, r ≠ VF → t.v[r] = s.v[r]) ∧ t = { s with fb := t.fb, v := t.v } ∧ KeepsMemory s t)

/-- The property S5 of spec/95_test_vectors.md in general (R133, R135): a sprite drawn twice at one place leaves the
framebuffer as it was; when the first draw collides with nothing, the second collides exactly when the first changed a
pixel. -/
def Obligations.SpriteDrawnTwiceVanishes : Prop :=
  ∀ (cx cy : Nat) (rows : List Byte) (fb : Framebuffer),
    (drawSprite cx cy rows (drawSprite cx cy rows fb).1).1 = fb ∧
    ((drawSprite cx cy rows fb).2 = false →
      ((drawSprite cx cy rows (drawSprite cx cy rows fb).1).2 = true ↔ (drawSprite cx cy rows fb).1 ≠ fb))

/-! ## Keys and timers -/

/-- R150, R151: the skips on the key named by the low four bits of Vx (decision D9; log 11); nothing else changes. -/
def Obligations.SkipOnKey : Prop :=
  ∀ (x : Reg) (k : Key) (s : State), k.val = s.v[x].toNat % 16 →
    decodeWord (BitVec.ofNat 16 (0xE09E + x.val * 256)) = some (.skp x) ∧
    decodeWord (BitVec.ofNat 16 (0xE0A1 + x.val * 256)) = some (.sknp x) ∧
    exec (.skp x) s = .next { s with pc := if s.keys[k] = true then s.pc + 2 else s.pc } ∧
    exec (.sknp x) s = .next { s with pc := if s.keys[k] = true then s.pc else s.pc + 2 }

/-- R152, R154, R155: the three timer moves; the sound latch, CTR and everything else stay. -/
def Obligations.TimerMoves : Prop :=
  ∀ (x : Reg) (s : State),
    decodeWord (BitVec.ofNat 16 (0xF007 + x.val * 256)) = some (.ldVxDT x) ∧
    decodeWord (BitVec.ofNat 16 (0xF015 + x.val * 256)) = some (.ldDTVx x) ∧
    decodeWord (BitVec.ofNat 16 (0xF018 + x.val * 256)) = some (.ldSTVx x) ∧
    (∃ t, exec (.ldVxDT x) s = .next t ∧ t.v[x] = s.dt ∧ OnlyVAt x s t) ∧
    exec (.ldDTVx x) s = .next { s with dt := s.v[x] } ∧
    exec (.ldSTVx x) s = .next { s with st := s.v[x] }

/-- R153 with R174: `LD Vx,K` arms the key-wait for x and ends; no V register and nothing else changes. -/
def Obligations.WaitKeyArmsLatch : Prop :=
  ∀ (x : Reg) (s : State),
    decodeWord (BitVec.ofNat 16 (0xF00A + x.val * 256)) = some (.ldVxK x) ∧
    exec (.ldVxK x) s = .next { s with kwArmed := true, kwReg := x }
end

