-- ==== Sys2Proof/Laws/Memory.lean ====
section
/-! SUPPORT. Laws of MEM: a read after a write, and that every memory operation keeps the canonical form. -/

namespace Sys2Proof.Machine

theorem Memory.read_cell_append (a b : Nat) (v : Byte) (rest : Memory) :
    Memory.read (Memory.cell a v ++ rest) b =
      if b = a then (if v = resetByte a then Memory.read rest a else v) else Memory.read rest b := by
  unfold Memory.cell
  by_cases hv : v = resetByte a
  · by_cases hb : b = a <;> simp [hv, hb]
  · by_cases hb : b = a <;> simp [hv, hb, Memory.read]

/-- Below every listed address a memory reads as its reset contents. -/
theorem Memory.read_below {m : Memory} {a : Nat} (h : ∀ c ∈ m, a < c.1) : Memory.read m a = resetByte a := by
  induction m with
  | nil => rfl
  | cons c rest ih =>
    obtain ⟨k, b⟩ := c
    have hk : a ≠ k := by
      have := h (k, b) (by simp)
      simp only at this; omega
    simp only [Memory.read, if_neg hk]
    exact ih (fun c hc => h c (by simp [hc]))

/-- The cells after the head of a sorted memory lie above it. -/
theorem Memory.wf_tail_above {k : Nat} {b : Byte} {rest : Memory} (h : Memory.wf ((k, b) :: rest)) :
    ∀ c ∈ rest, k < c.1 := (List.pairwise_cons.mp h.1).1

theorem Memory.wf_tail {c : Host.Cell} {rest : Memory} (h : Memory.wf (c :: rest)) : Memory.wf rest :=
  ⟨(List.pairwise_cons.mp h.1).2, fun d hd => h.2 d (by simp [hd])⟩

/-- Read after write, on a memory in canonical form. -/
theorem Memory.read_write {m : Memory} (h : m.wf) (a b : Nat) (v : Byte) :
    Memory.read (m.write a v) b = if b = a then v else m.read b := by
  induction m with
  | nil =>
    have := Memory.read_cell_append a b v []
    simp only [List.append_nil] at this
    rw [Memory.write, this]
    by_cases hv : v = resetByte a <;> simp [hv, Memory.read]
  | cons c rest ih =>
    obtain ⟨k, d⟩ := c
    have above := Memory.wf_tail_above h
    simp only [Memory.write]
    split
    · next hlt =>
      have hlow : Memory.read ((k, d) :: rest) a = resetByte a := by
        refine Memory.read_below (fun c hc => ?_)
        rcases List.mem_cons.mp hc with rfl | hc
        · exact hlt
        · exact Nat.lt_trans hlt (above c hc)
      rw [Memory.read_cell_append, hlow]
      by_cases hv : v = resetByte a <;> simp [hv]
    · split
      · next heq =>
        subst heq
        rw [Memory.read_cell_append, Memory.read_below (m := rest) (a := a) above]
        by_cases hb : b = a
        · by_cases hv : v = resetByte a <;> simp [hb, hv]
        · simp [hb, Memory.read]
      · next hne =>
        simp only [Memory.read, ih (Memory.wf_tail h)]
        by_cases hb : b = k
        · have : b ≠ a := by omega
          simp [hb, show k ≠ a by omega]
        · simp [hb]

theorem Memory.mem_cell {a : Nat} {v : Byte} {c : Host.Cell} (h : c ∈ Memory.cell a v) :
    c = (a, v) ∧ v ≠ resetByte a := by
  unfold Memory.cell at h
  split at h
  · simp at h
  · next hv => exact ⟨by simpa using h, hv⟩

/-- Where the cells of a written memory come from. -/
theorem Memory.mem_write {m : Memory} {a : Nat} {v : Byte} {c : Host.Cell} (h : c ∈ m.write a v) :
    (c = (a, v) ∧ v ≠ resetByte a) ∨ c ∈ m := by
  induction m with
  | nil => exact .inl (Memory.mem_cell h)
  | cons d rest ih =>
    obtain ⟨k, e⟩ := d
    simp only [Memory.write] at h
    split at h
    · rcases List.mem_append.mp h with h | h
      · exact .inl (Memory.mem_cell h)
      · exact .inr h
    · split at h
      · rcases List.mem_append.mp h with h | h
        · exact .inl (Memory.mem_cell h)
        · exact .inr (by simp [h])
      · rcases List.mem_cons.mp h with h | h
        · exact .inr (by simp [h])
        · rcases ih h with h | h
          · exact .inl h
          · exact .inr (by simp [h])

theorem Memory.pairwise_cell_append {a : Nat} {v : Byte} {m : Memory}
    (hm : m.Pairwise (fun p q => p.1 < q.1)) (habove : ∀ c ∈ m, a < c.1) :
    (Memory.cell a v ++ m).Pairwise (fun p q => p.1 < q.1) := by
  unfold Memory.cell
  split
  · simpa using hm
  · exact List.pairwise_cons.mpr ⟨habove, hm⟩

/-- A write inside the 4096 bytes keeps the canonical form. -/
theorem Memory.write_wf {m : Memory} (h : m.wf) {a : Nat} (ha : a < Config.memSize) (v : Byte) :
    (m.write a v).wf := by
  refine ⟨?_, fun c hc => ?_⟩
  · induction m with
    | nil =>
      have := Memory.pairwise_cell_append (v := v) (a := a) (m := []) List.Pairwise.nil (by simp)
      rwa [List.append_nil] at this
    | cons c rest ih =>
      obtain ⟨k, d⟩ := c
      have above := Memory.wf_tail_above h
      simp only [Memory.write]
      split
      · next hlt =>
        refine Memory.pairwise_cell_append h.1 (fun c hc => ?_)
        rcases List.mem_cons.mp hc with rfl | hc
        · exact hlt
        · exact Nat.lt_trans hlt (above c hc)
      · split
        · next heq =>
          subst heq
          exact Memory.pairwise_cell_append (Memory.wf_tail h).1 above
        · next hne =>
          refine List.pairwise_cons.mpr ⟨fun c hc => ?_, ih (Memory.wf_tail h)⟩
          rcases Memory.mem_write hc with ⟨rfl, -⟩ | hc
          · simp only; omega
          · exact above c hc
  · rcases Memory.mem_write hc with ⟨rfl, hv⟩ | hc
    · exact ⟨ha, hv⟩
    · exact h.2 c hc

/-- Byte writes inside the 4096 bytes keep the canonical form. -/
theorem Memory.writeBytes_wf {m : Memory} (h : m.wf) {a : Nat} {bs : List Byte}
    (hb : a + bs.length ≤ Config.memSize) : (m.writeBytes a bs).wf := by
  induction bs generalizing m a with
  | nil => exact h
  | cons b bs ih =>
    simp only [List.length_cons] at hb
    exact ih (Memory.write_wf h (by omega) b) (by omega)

/-- What every address reads as after byte writes at ascending addresses. -/
theorem Memory.read_writeBytes {m : Memory} (h : m.wf) {a : Nat} {bs : List Byte}
    (hb : a + bs.length ≤ Config.memSize) (k : Nat) :
    (m.writeBytes a bs).read k = if a ≤ k ∧ k < a + bs.length then bs.getD (k - a) 0 else m.read k := by
  induction bs generalizing m a with
  | nil => simp [Memory.writeBytes, show ¬(a ≤ k ∧ k < a) by omega]
  | cons b bs ih =>
    simp only [List.length_cons] at hb ⊢
    have ha : a < Config.memSize := by omega
    rw [Memory.writeBytes, ih (Memory.write_wf h ha b) (by omega), Memory.read_write h]
    by_cases hk : k = a
    · subst hk
      simp
    · by_cases hin : a + 1 ≤ k ∧ k < a + 1 + bs.length
      · have e : k - a = (k - (a + 1)) + 1 := by omega
        rw [if_pos hin, if_pos (by omega), e, List.getD_cons_succ]
      · rw [if_neg hin, if_neg hk, if_neg (by omega)]

@[simp] theorem Memory.readBytes_length (m : Memory) (a n : Nat) : (m.readBytes a n).length = n := by
  simp [Memory.readBytes]

theorem Memory.readBytes_getElem (m : Memory) (a n r : Nat) (h : r < (m.readBytes a n).length) :
    (m.readBytes a n)[r] = m.read (a + r) := by
  simp [Memory.readBytes]

theorem Memory.reset_wf : State.reset.mem.wf := by decide

end Sys2Proof.Machine
end

