-- ==== Sys2Proof/Laws/Framebuffer.lean ====
section
/-! SUPPORT. Laws of the framebuffer engine: what each operation does to every pixel, and the collision bit. -/

namespace Sys2Proof.Machine

theorem Framebuffer.pixel_of_lt (fb : Framebuffer) {x y : Nat} (hx : x < 64) (hy : y < 32) :
    fb.pixel x y = fb[y][x] := by simp [Framebuffer.pixel, hx, hy]

@[simp] theorem Framebuffer.pixel_setPixel (fb : Framebuffer) (px py x y : Nat) (b : Bool) :
    Framebuffer.pixel (Framebuffer.setPixel fb px py b) x y =
      if x = px ∧ y = py ∧ x < 64 ∧ y < 32 then b else fb.pixel x y := by
  unfold Framebuffer.setPixel
  by_cases hp : px < 64 ∧ py < 32
  · rw [dif_pos hp]
    by_cases hg : x < 64 ∧ y < 32
    · rw [Framebuffer.pixel_of_lt _ hg.1 hg.2, Framebuffer.pixel_of_lt _ hg.1 hg.2, Vector.getElem_set]
      by_cases hy : py = y
      · subst hy
        by_cases hx : px = x
        · subst hx; simp [hg]
        · simp [hx, Ne.symm hx]
      · simp [hy, Ne.symm hy]
    · rw [if_neg (by omega)]
      simp [Framebuffer.pixel, hg]
  · rw [dif_neg hp, if_neg (by omega)]

@[simp] theorem Framebuffer.pixel_clear (x y : Nat) : Framebuffer.pixel Framebuffer.clear x y = false := by
  simp [Framebuffer.pixel, Framebuffer.clear]

/-- Two framebuffers that agree on every pixel of the grid are equal. -/
theorem Framebuffer.ext_pixel {f g : Framebuffer} (h : ∀ x y, x < 64 → y < 32 → f.pixel x y = g.pixel x y) :
    f = g := by
  refine Vector.ext (fun y hy => Vector.ext (fun x hx => ?_))
  simpa [Framebuffer.pixel_of_lt _ hx hy] using h x y hx hy

theorem plot_pixel (px py x y : Nat) (d : Drawing) :
    Framebuffer.pixel (plot px py d).1 x y =
      (Framebuffer.pixel d.1 x y ^^ decide (x = px ∧ y = py ∧ x < 64 ∧ y < 32)) := by
  unfold plot
  split
  · simp only [Framebuffer.pixel_setPixel]
    by_cases h : x = px ∧ y = py ∧ x < 64 ∧ y < 32
    · obtain ⟨rfl, rfl, hx, hy⟩ := h
      simp [hx, hy]
    · simp [h]
  · next h =>
    have : ¬(x = px ∧ y = py ∧ x < 64 ∧ y < 32) := by omega
    simp [this]

theorem plot_collision (px py : Nat) (d : Drawing) :
    (plot px py d).2 = (d.2 || decide (px < 64 ∧ py < 32) && Framebuffer.pixel d.1 px py) := by
  unfold plot
  by_cases h : px ≤ 63 ∧ py ≤ 31
  · simp [h, show px < 64 by omega, show py < 32 by omega]
  · rw [if_neg h]
    simp [show ¬(px < 64 ∧ py < 32) by omega]

/-- The inner loop over any list of distinct column offsets. -/
def drawOffsets (cx py : Nat) (row : Byte) (bs : List Nat) (d : Drawing) : Drawing :=
  bs.foldl (fun acc b => if row.getLsbD (7 - b) then plot (cx + b) py acc else acc) d

theorem drawOffsets_pixel (cx py : Nat) (row : Byte) (bs : List Nat) (hn : bs.Nodup) (d : Drawing) (x y : Nat) :
    Framebuffer.pixel (drawOffsets cx py row bs d).1 x y =
      (Framebuffer.pixel d.1 x y ^^
        decide (∃ b ∈ bs, row.getLsbD (7 - b) = true ∧ x = cx + b ∧ y = py ∧ x < 64 ∧ y < 32)) := by
  induction bs generalizing d with
  | nil => simp [drawOffsets]
  | cons b bs ih =>
    obtain ⟨hb, hn⟩ := List.nodup_cons.mp hn
    have step : drawOffsets cx py row (b :: bs) d =
        drawOffsets cx py row bs (if row.getLsbD (7 - b) then plot (cx + b) py d else d) := rfl
    rw [step, ih hn]
    by_cases hrow : row.getLsbD (7 - b) = true
    · rw [if_pos hrow, plot_pixel]
      by_cases hx : x = cx + b
      · have hno : ¬∃ b' ∈ bs, row.getLsbD (7 - b') = true ∧ x = cx + b' ∧ y = py ∧ x < 64 ∧ y < 32 := by
          rintro ⟨b', hb', -, hx', -⟩
          exact hb (by rwa [show b = b' by omega])
        simp only [hno, decide_false, Bool.xor_false]
        simp only [List.mem_cons, exists_eq_or_imp, hrow, hno, true_and, or_false]
      · simp [hx, hrow]
    · simp [hrow]

theorem drawOffsets_collision (cx py : Nat) (row : Byte) (bs : List Nat) (hn : bs.Nodup) (d : Drawing) :
    (drawOffsets cx py row bs d).2 = true ↔ d.2 = true ∨
      ∃ b ∈ bs, row.getLsbD (7 - b) = true ∧ cx + b < 64 ∧ py < 32 ∧ Framebuffer.pixel d.1 (cx + b) py = true := by
  induction bs generalizing d with
  | nil => simp [drawOffsets]
  | cons b bs ih =>
    obtain ⟨hb, hn⟩ := List.nodup_cons.mp hn
    have step : drawOffsets cx py row (b :: bs) d =
        drawOffsets cx py row bs (if row.getLsbD (7 - b) then plot (cx + b) py d else d) := rfl
    rw [step, ih hn]
    by_cases hrow : row.getLsbD (7 - b) = true
    · have same : ∀ b' ∈ bs, Framebuffer.pixel (plot (cx + b) py d).1 (cx + b') py =
          Framebuffer.pixel d.1 (cx + b') py := by
        intro b' hb'
        have : b' ≠ b := fun e => hb (e ▸ hb')
        simp [plot_pixel, this]
      rw [if_pos hrow]
      simp only [plot_collision, List.mem_cons, exists_eq_or_imp, hrow, true_and, Bool.or_eq_true,
        Bool.and_eq_true, decide_eq_true_eq, and_assoc, or_assoc]
      refine or_congr Iff.rfl (or_congr Iff.rfl (exists_congr fun b' => and_congr_right fun hb' => ?_))
      rw [same b' hb']
    · simp [hrow]

theorem drawRow_eq (cx py : Nat) (row : Byte) (d : Drawing) :
    drawRow cx py row d = drawOffsets cx py row [0, 1, 2, 3, 4, 5, 6, 7] d := rfl

/-- The source bit of a sprite at (cx, cy) that falls on the pixel (x, y): bit 7 of a row is the leftmost (R136). -/
def spriteBit (rows : List Byte) (cx cy x y : Nat) : Bool :=
  decide (cx ≤ x ∧ x < cx + 8 ∧ cy ≤ y ∧ y < cy + rows.length) && (rows.getD (y - cy) 0).getLsbD (7 - (x - cx))

theorem drawRow_pixel (cx py : Nat) (row : Byte) (d : Drawing) {x y : Nat} (hx : x < 64) (hy : y < 32) :
    Framebuffer.pixel (drawRow cx py row d).1 x y =
      (Framebuffer.pixel d.1 x y ^^ spriteBit [row] cx py x y) := by
  rw [drawRow_eq, drawOffsets_pixel _ _ _ _ (by decide)]
  congr 1
  rw [Bool.eq_iff_iff, decide_eq_true_eq]
  simp only [spriteBit, Bool.and_eq_true, decide_eq_true_eq, List.length_singleton]
  constructor
  · rintro ⟨b, hb, hbit, rfl, rfl, -, -⟩
    have : b < 8 := by simp at hb; omega
    exact ⟨by omega, by simpa using hbit⟩
  · rintro ⟨⟨h1, h2, h3, h4⟩, hbit⟩
    obtain rfl : y = py := by omega
    refine ⟨x - cx, ?_, by simpa using hbit, by omega, rfl, hx, hy⟩
    have : x - cx < 8 := by omega
    generalize x - cx = b at this
    interval_cases b <;> simp

theorem drawRow_collision (cx py : Nat) (row : Byte) (d : Drawing) :
    (drawRow cx py row d).2 = true ↔ d.2 = true ∨
      ∃ x y, x < 64 ∧ y < 32 ∧ spriteBit [row] cx py x y = true ∧ Framebuffer.pixel d.1 x y = true := by
  rw [drawRow_eq, drawOffsets_collision _ _ _ _ (by decide)]
  refine or_congr Iff.rfl ⟨?_, ?_⟩
  · rintro ⟨b, hb, hbit, hx, hy, hp⟩
    have : b < 8 := by simp at hb; omega
    exact ⟨cx + b, py, hx, hy, by simp [spriteBit, this, hbit], hp⟩
  · rintro ⟨x, y, hx, hy, hs, hp⟩
    simp only [spriteBit, Bool.and_eq_true, decide_eq_true_eq, List.length_singleton] at hs
    obtain ⟨⟨h1, h2, h3, h4⟩, hbit⟩ := hs
    obtain rfl : y = py := by omega
    have e : cx + (x - cx) = x := by omega
    refine ⟨x - cx, ?_, by simpa using hbit, by omega, hy, by rwa [e]⟩
    have : x - cx < 8 := by omega
    generalize x - cx = b at this
    interval_cases b <;> simp

theorem spriteBit_cons (row : Byte) (rows : List Byte) (cx cy x y : Nat) :
    spriteBit (row :: rows) cx cy x y = (spriteBit [row] cx cy x y || spriteBit rows cx (cy + 1) x y) := by
  by_cases hy : y = cy
  · subst hy
    simp [spriteBit]
  · by_cases hlt : y < cy
    · simp [spriteBit, show ¬cy ≤ y by omega, show ¬cy + 1 ≤ y by omega]
    · have e : y - cy = (y - (cy + 1)) + 1 := by omega
      simp only [spriteBit, List.length_cons, List.length_nil, e, List.getD_cons_succ]
      rw [show decide (cx ≤ x ∧ x < cx + 8 ∧ cy ≤ y ∧ y < cy + (0 + 1)) = false by
        rw [decide_eq_false_iff_not]; omega]
      rw [show decide (cx ≤ x ∧ x < cx + 8 ∧ cy ≤ y ∧ y < cy + (rows.length + 1)) =
        decide (cx ≤ x ∧ x < cx + 8 ∧ cy + 1 ≤ y ∧ y < cy + 1 + rows.length) by
        rw [decide_eq_decide]; omega]
      simp

/-- The first row of a sprite and the rows below it share no pixel. -/
theorem spriteBit_disjoint (row : Byte) (rows : List Byte) (cx cy x y : Nat)
    (h : spriteBit [row] cx cy x y = true) : spriteBit rows cx (cy + 1) x y = false := by
  simp only [spriteBit, Bool.and_eq_true, decide_eq_true_eq, List.length_singleton] at h
  simp [spriteBit, show ¬cy + 1 ≤ y by omega]

/-- Every pixel after `DrawSprite`: toggled exactly where a source bit is set (R133, R134, R136). -/
theorem drawRows_pixel (cx : Nat) (rows : List Byte) (cy : Nat) (d : Drawing) {x y : Nat} (hx : x < 64)
    (hy : y < 32) :
    Framebuffer.pixel (drawRows cx cy rows d).1 x y =
      (Framebuffer.pixel d.1 x y ^^ spriteBit rows cx cy x y) := by
  induction rows generalizing cy d with
  | nil => simp [drawRows, spriteBit, show ¬(cy ≤ y ∧ y < cy) by omega]
  | cons row rows ih =>
    rw [drawRows, ih, drawRow_pixel _ _ _ _ hx hy, spriteBit_cons row rows, Bool.xor_assoc]
    congr 1
    cases h : spriteBit [row] cx cy x y
    · simp
    · simp [spriteBit_disjoint _ _ _ _ _ _ h]

/-- The collision bit: some pixel that a source bit toggles was on before the draw (R135). -/
theorem drawRows_collision (cx : Nat) (rows : List Byte) (cy : Nat) (d : Drawing) :
    (drawRows cx cy rows d).2 = true ↔ d.2 = true ∨
      ∃ x y, x < 64 ∧ y < 32 ∧ spriteBit rows cx cy x y = true ∧ Framebuffer.pixel d.1 x y = true := by
  induction rows generalizing cy d with
  | nil => simp [drawRows, spriteBit, show ∀ y, ¬(cy ≤ y ∧ y < cy) by omega]
  | cons row rows ih =>
    rw [drawRows, ih, drawRow_collision, or_assoc]
    refine or_congr Iff.rfl ⟨?_, ?_⟩
    · rintro (⟨x, y, hx, hy, hs, hp⟩ | ⟨x, y, hx, hy, hs, hp⟩)
      · exact ⟨x, y, hx, hy, by rw [spriteBit_cons, hs]; rfl, hp⟩
      · refine ⟨x, y, hx, hy, by rw [spriteBit_cons, hs, Bool.or_true], ?_⟩
        rw [drawRow_pixel _ _ _ _ hx hy] at hp
        cases h : spriteBit [row] cx cy x y
        · simpa [h] using hp
        · rw [spriteBit_disjoint _ _ _ _ _ _ h] at hs
          simp at hs
    · rintro ⟨x, y, hx, hy, hs, hp⟩
      rw [spriteBit_cons row rows, Bool.or_eq_true] at hs
      cases h : spriteBit [row] cx cy x y
      · refine .inr ⟨x, y, hx, hy, by simpa [h] using hs, ?_⟩
        rw [drawRow_pixel _ _ _ _ hx hy, h]
        simpa using hp
      · exact .inl ⟨x, y, hx, hy, h, hp⟩

theorem remember_length (cap : Nat) (hist : List Framebuffer) (fb : Framebuffer) (h : hist.length ≤ cap) : (remember cap hist fb).length ≤ cap := by
  unfold remember
  split
  · simp only [List.length_tail, List.length_append, List.length_singleton]
    omega
  · omega

/-- A pixel is in the list of on-pixels exactly when it is a pixel of the grid and on. -/
theorem mem_onPixels (fb : Framebuffer) (x y : Nat) :
    (x, y) ∈ onPixels fb ↔ x < 64 ∧ y < 32 ∧ fb.pixel x y = true := by
  simp only [onPixels, List.mem_flatMap, List.mem_filterMap, Prod.exists, List.mem_zipIdx_iff_getElem?,
    Vector.getElem?_toList]
  constructor
  · rintro ⟨row, y', hrow, b, x', hb, hsome⟩
    cases b
    · simp at hsome
    · simp only [if_true, Option.some.injEq, Prod.mk.injEq] at hsome
      obtain ⟨rfl, rfl⟩ := hsome
      obtain ⟨hy, rfl⟩ := Vector.getElem?_eq_some_iff.mp hrow
      obtain ⟨hx, hb⟩ := Vector.getElem?_eq_some_iff.mp hb
      exact ⟨hx, hy, by rw [Framebuffer.pixel_of_lt _ hx hy, hb]⟩
  · rintro ⟨hx, hy, hp⟩
    rw [Framebuffer.pixel_of_lt _ hx hy] at hp
    exact ⟨fb[y], y, Vector.getElem?_eq_some_iff.mpr ⟨hy, rfl⟩, true, x,
      Vector.getElem?_eq_some_iff.mpr ⟨hx, hp⟩, by simp⟩

end Sys2Proof.Machine
end

