-- ==== Sys2Proof/Laws/State.lean ====
section
/-! SUPPORT. What each update of Machine/Ops.lean does to each field of State, one lemma per field per update. -/

namespace Sys2Proof.Machine

variable (s : State)

/-! ### writeV -/

@[simp] theorem State.writeV_v (x : Reg) (b : Byte) : (s.writeV x b).v = s.v.set x b := rfl
@[simp] theorem State.writeV_i (x : Reg) (b : Byte) : (s.writeV x b).i = s.i := rfl
@[simp] theorem State.writeV_pc (x : Reg) (b : Byte) : (s.writeV x b).pc = s.pc := rfl
@[simp] theorem State.writeV_stack (x : Reg) (b : Byte) : (s.writeV x b).stack = s.stack := rfl
@[simp] theorem State.writeV_mem (x : Reg) (b : Byte) : (s.writeV x b).mem = s.mem := rfl
@[simp] theorem State.writeV_dt (x : Reg) (b : Byte) : (s.writeV x b).dt = s.dt := rfl
@[simp] theorem State.writeV_st (x : Reg) (b : Byte) : (s.writeV x b).st = s.st := rfl
@[simp] theorem State.writeV_fb (x : Reg) (b : Byte) : (s.writeV x b).fb = s.fb := rfl
@[simp] theorem State.writeV_hist (x : Reg) (b : Byte) : (s.writeV x b).hist = s.hist := rfl
@[simp] theorem State.writeV_keys (x : Reg) (b : Byte) : (s.writeV x b).keys = s.keys := rfl
@[simp] theorem State.writeV_kwArmed (x : Reg) (b : Byte) : (s.writeV x b).kwArmed = s.kwArmed := rfl
@[simp] theorem State.writeV_kwReg (x : Reg) (b : Byte) : (s.writeV x b).kwReg = s.kwReg := rfl
@[simp] theorem State.writeV_ctr (x : Reg) (b : Byte) : (s.writeV x b).ctr = s.ctr := rfl
@[simp] theorem State.writeV_snd (x : Reg) (b : Byte) : (s.writeV x b).snd = s.snd := rfl
@[simp] theorem State.writeV_fault (x : Reg) (b : Byte) : (s.writeV x b).fault = s.fault := rfl
@[simp] theorem State.writeV_trace (x : Reg) (b : Byte) : (s.writeV x b).trace = s.trace := rfl
@[simp] theorem State.writeV_draws (x : Reg) (b : Byte) : (s.writeV x b).draws = s.draws := rfl

/-! ### setI -/

@[simp] theorem State.setI_v (w : Word) : (s.setI w).v = s.v := rfl
@[simp] theorem State.setI_i (w : Word) : (s.setI w).i = w := rfl
@[simp] theorem State.setI_pc (w : Word) : (s.setI w).pc = s.pc := rfl
@[simp] theorem State.setI_stack (w : Word) : (s.setI w).stack = s.stack := rfl
@[simp] theorem State.setI_mem (w : Word) : (s.setI w).mem = s.mem := rfl
@[simp] theorem State.setI_dt (w : Word) : (s.setI w).dt = s.dt := rfl
@[simp] theorem State.setI_st (w : Word) : (s.setI w).st = s.st := rfl
@[simp] theorem State.setI_fb (w : Word) : (s.setI w).fb = s.fb := rfl
@[simp] theorem State.setI_hist (w : Word) : (s.setI w).hist = s.hist := rfl
@[simp] theorem State.setI_keys (w : Word) : (s.setI w).keys = s.keys := rfl
@[simp] theorem State.setI_kwArmed (w : Word) : (s.setI w).kwArmed = s.kwArmed := rfl
@[simp] theorem State.setI_kwReg (w : Word) : (s.setI w).kwReg = s.kwReg := rfl
@[simp] theorem State.setI_ctr (w : Word) : (s.setI w).ctr = s.ctr := rfl
@[simp] theorem State.setI_snd (w : Word) : (s.setI w).snd = s.snd := rfl
@[simp] theorem State.setI_fault (w : Word) : (s.setI w).fault = s.fault := rfl
@[simp] theorem State.setI_trace (w : Word) : (s.setI w).trace = s.trace := rfl
@[simp] theorem State.setI_draws (w : Word) : (s.setI w).draws = s.draws := rfl

/-! ### setPc -/

@[simp] theorem State.setPc_v (w : Word) : (s.setPc w).v = s.v := rfl
@[simp] theorem State.setPc_i (w : Word) : (s.setPc w).i = s.i := rfl
@[simp] theorem State.setPc_pc (w : Word) : (s.setPc w).pc = w := rfl
@[simp] theorem State.setPc_stack (w : Word) : (s.setPc w).stack = s.stack := rfl
@[simp] theorem State.setPc_mem (w : Word) : (s.setPc w).mem = s.mem := rfl
@[simp] theorem State.setPc_dt (w : Word) : (s.setPc w).dt = s.dt := rfl
@[simp] theorem State.setPc_st (w : Word) : (s.setPc w).st = s.st := rfl
@[simp] theorem State.setPc_fb (w : Word) : (s.setPc w).fb = s.fb := rfl
@[simp] theorem State.setPc_hist (w : Word) : (s.setPc w).hist = s.hist := rfl
@[simp] theorem State.setPc_keys (w : Word) : (s.setPc w).keys = s.keys := rfl
@[simp] theorem State.setPc_kwArmed (w : Word) : (s.setPc w).kwArmed = s.kwArmed := rfl
@[simp] theorem State.setPc_kwReg (w : Word) : (s.setPc w).kwReg = s.kwReg := rfl
@[simp] theorem State.setPc_ctr (w : Word) : (s.setPc w).ctr = s.ctr := rfl
@[simp] theorem State.setPc_snd (w : Word) : (s.setPc w).snd = s.snd := rfl
@[simp] theorem State.setPc_fault (w : Word) : (s.setPc w).fault = s.fault := rfl
@[simp] theorem State.setPc_trace (w : Word) : (s.setPc w).trace = s.trace := rfl
@[simp] theorem State.setPc_draws (w : Word) : (s.setPc w).draws = s.draws := rfl

/-! ### setStack -/

@[simp] theorem State.setStack_v (l : List Word) : (s.setStack l).v = s.v := rfl
@[simp] theorem State.setStack_i (l : List Word) : (s.setStack l).i = s.i := rfl
@[simp] theorem State.setStack_pc (l : List Word) : (s.setStack l).pc = s.pc := rfl
@[simp] theorem State.setStack_stack (l : List Word) : (s.setStack l).stack = l := rfl
@[simp] theorem State.setStack_mem (l : List Word) : (s.setStack l).mem = s.mem := rfl
@[simp] theorem State.setStack_dt (l : List Word) : (s.setStack l).dt = s.dt := rfl
@[simp] theorem State.setStack_st (l : List Word) : (s.setStack l).st = s.st := rfl
@[simp] theorem State.setStack_fb (l : List Word) : (s.setStack l).fb = s.fb := rfl
@[simp] theorem State.setStack_hist (l : List Word) : (s.setStack l).hist = s.hist := rfl
@[simp] theorem State.setStack_keys (l : List Word) : (s.setStack l).keys = s.keys := rfl
@[simp] theorem State.setStack_kwArmed (l : List Word) : (s.setStack l).kwArmed = s.kwArmed := rfl
@[simp] theorem State.setStack_kwReg (l : List Word) : (s.setStack l).kwReg = s.kwReg := rfl
@[simp] theorem State.setStack_ctr (l : List Word) : (s.setStack l).ctr = s.ctr := rfl
@[simp] theorem State.setStack_snd (l : List Word) : (s.setStack l).snd = s.snd := rfl
@[simp] theorem State.setStack_fault (l : List Word) : (s.setStack l).fault = s.fault := rfl
@[simp] theorem State.setStack_trace (l : List Word) : (s.setStack l).trace = s.trace := rfl
@[simp] theorem State.setStack_draws (l : List Word) : (s.setStack l).draws = s.draws := rfl

/-! ### setMem -/

@[simp] theorem State.setMem_v (m : Memory) : (s.setMem m).v = s.v := rfl
@[simp] theorem State.setMem_i (m : Memory) : (s.setMem m).i = s.i := rfl
@[simp] theorem State.setMem_pc (m : Memory) : (s.setMem m).pc = s.pc := rfl
@[simp] theorem State.setMem_stack (m : Memory) : (s.setMem m).stack = s.stack := rfl
@[simp] theorem State.setMem_mem (m : Memory) : (s.setMem m).mem = m := rfl
@[simp] theorem State.setMem_dt (m : Memory) : (s.setMem m).dt = s.dt := rfl
@[simp] theorem State.setMem_st (m : Memory) : (s.setMem m).st = s.st := rfl
@[simp] theorem State.setMem_fb (m : Memory) : (s.setMem m).fb = s.fb := rfl
@[simp] theorem State.setMem_hist (m : Memory) : (s.setMem m).hist = s.hist := rfl
@[simp] theorem State.setMem_keys (m : Memory) : (s.setMem m).keys = s.keys := rfl
@[simp] theorem State.setMem_kwArmed (m : Memory) : (s.setMem m).kwArmed = s.kwArmed := rfl
@[simp] theorem State.setMem_kwReg (m : Memory) : (s.setMem m).kwReg = s.kwReg := rfl
@[simp] theorem State.setMem_ctr (m : Memory) : (s.setMem m).ctr = s.ctr := rfl
@[simp] theorem State.setMem_snd (m : Memory) : (s.setMem m).snd = s.snd := rfl
@[simp] theorem State.setMem_fault (m : Memory) : (s.setMem m).fault = s.fault := rfl
@[simp] theorem State.setMem_trace (m : Memory) : (s.setMem m).trace = s.trace := rfl
@[simp] theorem State.setMem_draws (m : Memory) : (s.setMem m).draws = s.draws := rfl

/-! ### setDt -/

@[simp] theorem State.setDt_v (b : Byte) : (s.setDt b).v = s.v := rfl
@[simp] theorem State.setDt_i (b : Byte) : (s.setDt b).i = s.i := rfl
@[simp] theorem State.setDt_pc (b : Byte) : (s.setDt b).pc = s.pc := rfl
@[simp] theorem State.setDt_stack (b : Byte) : (s.setDt b).stack = s.stack := rfl
@[simp] theorem State.setDt_mem (b : Byte) : (s.setDt b).mem = s.mem := rfl
@[simp] theorem State.setDt_dt (b : Byte) : (s.setDt b).dt = b := rfl
@[simp] theorem State.setDt_st (b : Byte) : (s.setDt b).st = s.st := rfl
@[simp] theorem State.setDt_fb (b : Byte) : (s.setDt b).fb = s.fb := rfl
@[simp] theorem State.setDt_hist (b : Byte) : (s.setDt b).hist = s.hist := rfl
@[simp] theorem State.setDt_keys (b : Byte) : (s.setDt b).keys = s.keys := rfl
@[simp] theorem State.setDt_kwArmed (b : Byte) : (s.setDt b).kwArmed = s.kwArmed := rfl
@[simp] theorem State.setDt_kwReg (b : Byte) : (s.setDt b).kwReg = s.kwReg := rfl
@[simp] theorem State.setDt_ctr (b : Byte) : (s.setDt b).ctr = s.ctr := rfl
@[simp] theorem State.setDt_snd (b : Byte) : (s.setDt b).snd = s.snd := rfl
@[simp] theorem State.setDt_fault (b : Byte) : (s.setDt b).fault = s.fault := rfl
@[simp] theorem State.setDt_trace (b : Byte) : (s.setDt b).trace = s.trace := rfl
@[simp] theorem State.setDt_draws (b : Byte) : (s.setDt b).draws = s.draws := rfl

/-! ### setSt -/

@[simp] theorem State.setSt_v (b : Byte) : (s.setSt b).v = s.v := rfl
@[simp] theorem State.setSt_i (b : Byte) : (s.setSt b).i = s.i := rfl
@[simp] theorem State.setSt_pc (b : Byte) : (s.setSt b).pc = s.pc := rfl
@[simp] theorem State.setSt_stack (b : Byte) : (s.setSt b).stack = s.stack := rfl
@[simp] theorem State.setSt_mem (b : Byte) : (s.setSt b).mem = s.mem := rfl
@[simp] theorem State.setSt_dt (b : Byte) : (s.setSt b).dt = s.dt := rfl
@[simp] theorem State.setSt_st (b : Byte) : (s.setSt b).st = b := rfl
@[simp] theorem State.setSt_fb (b : Byte) : (s.setSt b).fb = s.fb := rfl
@[simp] theorem State.setSt_hist (b : Byte) : (s.setSt b).hist = s.hist := rfl
@[simp] theorem State.setSt_keys (b : Byte) : (s.setSt b).keys = s.keys := rfl
@[simp] theorem State.setSt_kwArmed (b : Byte) : (s.setSt b).kwArmed = s.kwArmed := rfl
@[simp] theorem State.setSt_kwReg (b : Byte) : (s.setSt b).kwReg = s.kwReg := rfl
@[simp] theorem State.setSt_ctr (b : Byte) : (s.setSt b).ctr = s.ctr := rfl
@[simp] theorem State.setSt_snd (b : Byte) : (s.setSt b).snd = s.snd := rfl
@[simp] theorem State.setSt_fault (b : Byte) : (s.setSt b).fault = s.fault := rfl
@[simp] theorem State.setSt_trace (b : Byte) : (s.setSt b).trace = s.trace := rfl
@[simp] theorem State.setSt_draws (b : Byte) : (s.setSt b).draws = s.draws := rfl

/-! ### setFb -/

@[simp] theorem State.setFb_v (f : Framebuffer) : (s.setFb f).v = s.v := rfl
@[simp] theorem State.setFb_i (f : Framebuffer) : (s.setFb f).i = s.i := rfl
@[simp] theorem State.setFb_pc (f : Framebuffer) : (s.setFb f).pc = s.pc := rfl
@[simp] theorem State.setFb_stack (f : Framebuffer) : (s.setFb f).stack = s.stack := rfl
@[simp] theorem State.setFb_mem (f : Framebuffer) : (s.setFb f).mem = s.mem := rfl
@[simp] theorem State.setFb_dt (f : Framebuffer) : (s.setFb f).dt = s.dt := rfl
@[simp] theorem State.setFb_st (f : Framebuffer) : (s.setFb f).st = s.st := rfl
@[simp] theorem State.setFb_fb (f : Framebuffer) : (s.setFb f).fb = f := rfl
@[simp] theorem State.setFb_hist (f : Framebuffer) : (s.setFb f).hist = s.hist := rfl
@[simp] theorem State.setFb_keys (f : Framebuffer) : (s.setFb f).keys = s.keys := rfl
@[simp] theorem State.setFb_kwArmed (f : Framebuffer) : (s.setFb f).kwArmed = s.kwArmed := rfl
@[simp] theorem State.setFb_kwReg (f : Framebuffer) : (s.setFb f).kwReg = s.kwReg := rfl
@[simp] theorem State.setFb_ctr (f : Framebuffer) : (s.setFb f).ctr = s.ctr := rfl
@[simp] theorem State.setFb_snd (f : Framebuffer) : (s.setFb f).snd = s.snd := rfl
@[simp] theorem State.setFb_fault (f : Framebuffer) : (s.setFb f).fault = s.fault := rfl
@[simp] theorem State.setFb_trace (f : Framebuffer) : (s.setFb f).trace = s.trace := rfl
@[simp] theorem State.setFb_draws (f : Framebuffer) : (s.setFb f).draws = s.draws := rfl

/-! ### setHist -/

@[simp] theorem State.setHist_v (h : List Framebuffer) : (s.setHist h).v = s.v := rfl
@[simp] theorem State.setHist_i (h : List Framebuffer) : (s.setHist h).i = s.i := rfl
@[simp] theorem State.setHist_pc (h : List Framebuffer) : (s.setHist h).pc = s.pc := rfl
@[simp] theorem State.setHist_stack (h : List Framebuffer) : (s.setHist h).stack = s.stack := rfl
@[simp] theorem State.setHist_mem (h : List Framebuffer) : (s.setHist h).mem = s.mem := rfl
@[simp] theorem State.setHist_dt (h : List Framebuffer) : (s.setHist h).dt = s.dt := rfl
@[simp] theorem State.setHist_st (h : List Framebuffer) : (s.setHist h).st = s.st := rfl
@[simp] theorem State.setHist_fb (h : List Framebuffer) : (s.setHist h).fb = s.fb := rfl
@[simp] theorem State.setHist_hist (h : List Framebuffer) : (s.setHist h).hist = h := rfl
@[simp] theorem State.setHist_keys (h : List Framebuffer) : (s.setHist h).keys = s.keys := rfl
@[simp] theorem State.setHist_kwArmed (h : List Framebuffer) : (s.setHist h).kwArmed = s.kwArmed := rfl
@[simp] theorem State.setHist_kwReg (h : List Framebuffer) : (s.setHist h).kwReg = s.kwReg := rfl
@[simp] theorem State.setHist_ctr (h : List Framebuffer) : (s.setHist h).ctr = s.ctr := rfl
@[simp] theorem State.setHist_snd (h : List Framebuffer) : (s.setHist h).snd = s.snd := rfl
@[simp] theorem State.setHist_fault (h : List Framebuffer) : (s.setHist h).fault = s.fault := rfl
@[simp] theorem State.setHist_trace (h : List Framebuffer) : (s.setHist h).trace = s.trace := rfl
@[simp] theorem State.setHist_draws (h : List Framebuffer) : (s.setHist h).draws = s.draws := rfl

/-! ### setKey -/

@[simp] theorem State.setKey_v (k : Key) (b : Bool) : (s.setKey k b).v = s.v := rfl
@[simp] theorem State.setKey_i (k : Key) (b : Bool) : (s.setKey k b).i = s.i := rfl
@[simp] theorem State.setKey_pc (k : Key) (b : Bool) : (s.setKey k b).pc = s.pc := rfl
@[simp] theorem State.setKey_stack (k : Key) (b : Bool) : (s.setKey k b).stack = s.stack := rfl
@[simp] theorem State.setKey_mem (k : Key) (b : Bool) : (s.setKey k b).mem = s.mem := rfl
@[simp] theorem State.setKey_dt (k : Key) (b : Bool) : (s.setKey k b).dt = s.dt := rfl
@[simp] theorem State.setKey_st (k : Key) (b : Bool) : (s.setKey k b).st = s.st := rfl
@[simp] theorem State.setKey_fb (k : Key) (b : Bool) : (s.setKey k b).fb = s.fb := rfl
@[simp] theorem State.setKey_hist (k : Key) (b : Bool) : (s.setKey k b).hist = s.hist := rfl
@[simp] theorem State.setKey_keys (k : Key) (b : Bool) : (s.setKey k b).keys = s.keys.set k b := rfl
@[simp] theorem State.setKey_kwArmed (k : Key) (b : Bool) : (s.setKey k b).kwArmed = s.kwArmed := rfl
@[simp] theorem State.setKey_kwReg (k : Key) (b : Bool) : (s.setKey k b).kwReg = s.kwReg := rfl
@[simp] theorem State.setKey_ctr (k : Key) (b : Bool) : (s.setKey k b).ctr = s.ctr := rfl
@[simp] theorem State.setKey_snd (k : Key) (b : Bool) : (s.setKey k b).snd = s.snd := rfl
@[simp] theorem State.setKey_fault (k : Key) (b : Bool) : (s.setKey k b).fault = s.fault := rfl
@[simp] theorem State.setKey_trace (k : Key) (b : Bool) : (s.setKey k b).trace = s.trace := rfl
@[simp] theorem State.setKey_draws (k : Key) (b : Bool) : (s.setKey k b).draws = s.draws := rfl

/-! ### armKeyWait -/

@[simp] theorem State.armKeyWait_v (r : Reg) : (s.armKeyWait r).v = s.v := rfl
@[simp] theorem State.armKeyWait_i (r : Reg) : (s.armKeyWait r).i = s.i := rfl
@[simp] theorem State.armKeyWait_pc (r : Reg) : (s.armKeyWait r).pc = s.pc := rfl
@[simp] theorem State.armKeyWait_stack (r : Reg) : (s.armKeyWait r).stack = s.stack := rfl
@[simp] theorem State.armKeyWait_mem (r : Reg) : (s.armKeyWait r).mem = s.mem := rfl
@[simp] theorem State.armKeyWait_dt (r : Reg) : (s.armKeyWait r).dt = s.dt := rfl
@[simp] theorem State.armKeyWait_st (r : Reg) : (s.armKeyWait r).st = s.st := rfl
@[simp] theorem State.armKeyWait_fb (r : Reg) : (s.armKeyWait r).fb = s.fb := rfl
@[simp] theorem State.armKeyWait_hist (r : Reg) : (s.armKeyWait r).hist = s.hist := rfl
@[simp] theorem State.armKeyWait_keys (r : Reg) : (s.armKeyWait r).keys = s.keys := rfl
@[simp] theorem State.armKeyWait_kwArmed (r : Reg) : (s.armKeyWait r).kwArmed = true := rfl
@[simp] theorem State.armKeyWait_kwReg (r : Reg) : (s.armKeyWait r).kwReg = r := rfl
@[simp] theorem State.armKeyWait_ctr (r : Reg) : (s.armKeyWait r).ctr = s.ctr := rfl
@[simp] theorem State.armKeyWait_snd (r : Reg) : (s.armKeyWait r).snd = s.snd := rfl
@[simp] theorem State.armKeyWait_fault (r : Reg) : (s.armKeyWait r).fault = s.fault := rfl
@[simp] theorem State.armKeyWait_trace (r : Reg) : (s.armKeyWait r).trace = s.trace := rfl
@[simp] theorem State.armKeyWait_draws (r : Reg) : (s.armKeyWait r).draws = s.draws := rfl

/-! ### disarmKeyWait -/

@[simp] theorem State.disarmKeyWait_v : s.disarmKeyWait.v = s.v := rfl
@[simp] theorem State.disarmKeyWait_i : s.disarmKeyWait.i = s.i := rfl
@[simp] theorem State.disarmKeyWait_pc : s.disarmKeyWait.pc = s.pc := rfl
@[simp] theorem State.disarmKeyWait_stack : s.disarmKeyWait.stack = s.stack := rfl
@[simp] theorem State.disarmKeyWait_mem : s.disarmKeyWait.mem = s.mem := rfl
@[simp] theorem State.disarmKeyWait_dt : s.disarmKeyWait.dt = s.dt := rfl
@[simp] theorem State.disarmKeyWait_st : s.disarmKeyWait.st = s.st := rfl
@[simp] theorem State.disarmKeyWait_fb : s.disarmKeyWait.fb = s.fb := rfl
@[simp] theorem State.disarmKeyWait_hist : s.disarmKeyWait.hist = s.hist := rfl
@[simp] theorem State.disarmKeyWait_keys : s.disarmKeyWait.keys = s.keys := rfl
@[simp] theorem State.disarmKeyWait_kwArmed : s.disarmKeyWait.kwArmed = false := rfl
@[simp] theorem State.disarmKeyWait_kwReg : s.disarmKeyWait.kwReg = s.kwReg := rfl
@[simp] theorem State.disarmKeyWait_ctr : s.disarmKeyWait.ctr = s.ctr := rfl
@[simp] theorem State.disarmKeyWait_snd : s.disarmKeyWait.snd = s.snd := rfl
@[simp] theorem State.disarmKeyWait_fault : s.disarmKeyWait.fault = s.fault := rfl
@[simp] theorem State.disarmKeyWait_trace : s.disarmKeyWait.trace = s.trace := rfl
@[simp] theorem State.disarmKeyWait_draws : s.disarmKeyWait.draws = s.draws := rfl

/-! ### setCtr -/

@[simp] theorem State.setCtr_v (n : Nat) : (s.setCtr n).v = s.v := rfl
@[simp] theorem State.setCtr_i (n : Nat) : (s.setCtr n).i = s.i := rfl
@[simp] theorem State.setCtr_pc (n : Nat) : (s.setCtr n).pc = s.pc := rfl
@[simp] theorem State.setCtr_stack (n : Nat) : (s.setCtr n).stack = s.stack := rfl
@[simp] theorem State.setCtr_mem (n : Nat) : (s.setCtr n).mem = s.mem := rfl
@[simp] theorem State.setCtr_dt (n : Nat) : (s.setCtr n).dt = s.dt := rfl
@[simp] theorem State.setCtr_st (n : Nat) : (s.setCtr n).st = s.st := rfl
@[simp] theorem State.setCtr_fb (n : Nat) : (s.setCtr n).fb = s.fb := rfl
@[simp] theorem State.setCtr_hist (n : Nat) : (s.setCtr n).hist = s.hist := rfl
@[simp] theorem State.setCtr_keys (n : Nat) : (s.setCtr n).keys = s.keys := rfl
@[simp] theorem State.setCtr_kwArmed (n : Nat) : (s.setCtr n).kwArmed = s.kwArmed := rfl
@[simp] theorem State.setCtr_kwReg (n : Nat) : (s.setCtr n).kwReg = s.kwReg := rfl
@[simp] theorem State.setCtr_ctr (n : Nat) : (s.setCtr n).ctr = n := rfl
@[simp] theorem State.setCtr_snd (n : Nat) : (s.setCtr n).snd = s.snd := rfl
@[simp] theorem State.setCtr_fault (n : Nat) : (s.setCtr n).fault = s.fault := rfl
@[simp] theorem State.setCtr_trace (n : Nat) : (s.setCtr n).trace = s.trace := rfl
@[simp] theorem State.setCtr_draws (n : Nat) : (s.setCtr n).draws = s.draws := rfl

/-! ### setSnd -/

@[simp] theorem State.setSnd_v (b : Bool) : (s.setSnd b).v = s.v := rfl
@[simp] theorem State.setSnd_i (b : Bool) : (s.setSnd b).i = s.i := rfl
@[simp] theorem State.setSnd_pc (b : Bool) : (s.setSnd b).pc = s.pc := rfl
@[simp] theorem State.setSnd_stack (b : Bool) : (s.setSnd b).stack = s.stack := rfl
@[simp] theorem State.setSnd_mem (b : Bool) : (s.setSnd b).mem = s.mem := rfl
@[simp] theorem State.setSnd_dt (b : Bool) : (s.setSnd b).dt = s.dt := rfl
@[simp] theorem State.setSnd_st (b : Bool) : (s.setSnd b).st = s.st := rfl
@[simp] theorem State.setSnd_fb (b : Bool) : (s.setSnd b).fb = s.fb := rfl
@[simp] theorem State.setSnd_hist (b : Bool) : (s.setSnd b).hist = s.hist := rfl
@[simp] theorem State.setSnd_keys (b : Bool) : (s.setSnd b).keys = s.keys := rfl
@[simp] theorem State.setSnd_kwArmed (b : Bool) : (s.setSnd b).kwArmed = s.kwArmed := rfl
@[simp] theorem State.setSnd_kwReg (b : Bool) : (s.setSnd b).kwReg = s.kwReg := rfl
@[simp] theorem State.setSnd_ctr (b : Bool) : (s.setSnd b).ctr = s.ctr := rfl
@[simp] theorem State.setSnd_snd (b : Bool) : (s.setSnd b).snd = b := rfl
@[simp] theorem State.setSnd_fault (b : Bool) : (s.setSnd b).fault = s.fault := rfl
@[simp] theorem State.setSnd_trace (b : Bool) : (s.setSnd b).trace = s.trace := rfl
@[simp] theorem State.setSnd_draws (b : Bool) : (s.setSnd b).draws = s.draws := rfl

/-! ### setFault -/

@[simp] theorem State.setFault_v (f : FaultRecord) : (s.setFault f).v = s.v := rfl
@[simp] theorem State.setFault_i (f : FaultRecord) : (s.setFault f).i = s.i := rfl
@[simp] theorem State.setFault_pc (f : FaultRecord) : (s.setFault f).pc = s.pc := rfl
@[simp] theorem State.setFault_stack (f : FaultRecord) : (s.setFault f).stack = s.stack := rfl
@[simp] theorem State.setFault_mem (f : FaultRecord) : (s.setFault f).mem = s.mem := rfl
@[simp] theorem State.setFault_dt (f : FaultRecord) : (s.setFault f).dt = s.dt := rfl
@[simp] theorem State.setFault_st (f : FaultRecord) : (s.setFault f).st = s.st := rfl
@[simp] theorem State.setFault_fb (f : FaultRecord) : (s.setFault f).fb = s.fb := rfl
@[simp] theorem State.setFault_hist (f : FaultRecord) : (s.setFault f).hist = s.hist := rfl
@[simp] theorem State.setFault_keys (f : FaultRecord) : (s.setFault f).keys = s.keys := rfl
@[simp] theorem State.setFault_kwArmed (f : FaultRecord) : (s.setFault f).kwArmed = s.kwArmed := rfl
@[simp] theorem State.setFault_kwReg (f : FaultRecord) : (s.setFault f).kwReg = s.kwReg := rfl
@[simp] theorem State.setFault_ctr (f : FaultRecord) : (s.setFault f).ctr = s.ctr := rfl
@[simp] theorem State.setFault_snd (f : FaultRecord) : (s.setFault f).snd = s.snd := rfl
@[simp] theorem State.setFault_fault (f : FaultRecord) : (s.setFault f).fault = f := rfl
@[simp] theorem State.setFault_trace (f : FaultRecord) : (s.setFault f).trace = s.trace := rfl
@[simp] theorem State.setFault_draws (f : FaultRecord) : (s.setFault f).draws = s.draws := rfl

/-! ### emit -/

@[simp] theorem State.emit_v (e : Event) : (s.emit e).v = s.v := rfl
@[simp] theorem State.emit_i (e : Event) : (s.emit e).i = s.i := rfl
@[simp] theorem State.emit_pc (e : Event) : (s.emit e).pc = s.pc := rfl
@[simp] theorem State.emit_stack (e : Event) : (s.emit e).stack = s.stack := rfl
@[simp] theorem State.emit_mem (e : Event) : (s.emit e).mem = s.mem := rfl
@[simp] theorem State.emit_dt (e : Event) : (s.emit e).dt = s.dt := rfl
@[simp] theorem State.emit_st (e : Event) : (s.emit e).st = s.st := rfl
@[simp] theorem State.emit_fb (e : Event) : (s.emit e).fb = s.fb := rfl
@[simp] theorem State.emit_hist (e : Event) : (s.emit e).hist = s.hist := rfl
@[simp] theorem State.emit_keys (e : Event) : (s.emit e).keys = s.keys := rfl
@[simp] theorem State.emit_kwArmed (e : Event) : (s.emit e).kwArmed = s.kwArmed := rfl
@[simp] theorem State.emit_kwReg (e : Event) : (s.emit e).kwReg = s.kwReg := rfl
@[simp] theorem State.emit_ctr (e : Event) : (s.emit e).ctr = s.ctr := rfl
@[simp] theorem State.emit_snd (e : Event) : (s.emit e).snd = s.snd := rfl
@[simp] theorem State.emit_fault (e : Event) : (s.emit e).fault = s.fault := rfl
@[simp] theorem State.emit_trace (e : Event) : (s.emit e).trace = s.trace ++ [e] := rfl
@[simp] theorem State.emit_draws (e : Event) : (s.emit e).draws = s.draws := rfl

/-! ### countDraw -/

@[simp] theorem State.countDraw_v : s.countDraw.v = s.v := rfl
@[simp] theorem State.countDraw_i : s.countDraw.i = s.i := rfl
@[simp] theorem State.countDraw_pc : s.countDraw.pc = s.pc := rfl
@[simp] theorem State.countDraw_stack : s.countDraw.stack = s.stack := rfl
@[simp] theorem State.countDraw_mem : s.countDraw.mem = s.mem := rfl
@[simp] theorem State.countDraw_dt : s.countDraw.dt = s.dt := rfl
@[simp] theorem State.countDraw_st : s.countDraw.st = s.st := rfl
@[simp] theorem State.countDraw_fb : s.countDraw.fb = s.fb := rfl
@[simp] theorem State.countDraw_hist : s.countDraw.hist = s.hist := rfl
@[simp] theorem State.countDraw_keys : s.countDraw.keys = s.keys := rfl
@[simp] theorem State.countDraw_kwArmed : s.countDraw.kwArmed = s.kwArmed := rfl
@[simp] theorem State.countDraw_kwReg : s.countDraw.kwReg = s.kwReg := rfl
@[simp] theorem State.countDraw_ctr : s.countDraw.ctr = s.ctr := rfl
@[simp] theorem State.countDraw_snd : s.countDraw.snd = s.snd := rfl
@[simp] theorem State.countDraw_fault : s.countDraw.fault = s.fault := rfl
@[simp] theorem State.countDraw_trace : s.countDraw.trace = s.trace := rfl
@[simp] theorem State.countDraw_draws : s.countDraw.draws = s.draws + 1 := rfl

end Sys2Proof.Machine
end

