-- ==== Sys2Proof/Laws/Ops.lean ====
section
/-! SUPPORT. One lemma per shared operation: everything it can do. -/

namespace Sys2Proof.Machine

/-! ## Registers -/

@[simp] theorem State.writeV_readV (s : State) (x r : Reg) (b : Byte) :
    (s.writeV x b).readV r = if r = x then b else s.readV r := by
  simp only [State.readV, State.writeV_v, Fin.getElem_fin, Vector.getElem_set, Fin.ext_iff]
  by_cases h : x.val = r.val
  · simp [h]
  · simp [h, Ne.symm h]

/-- What a register holds after the two writes of R112. -/
theorem State.writeResultFlag_readV (s : State) (order : VfWriteOrder) (x r : Reg) (b : Byte) (f : Bool) :
    (s.writeResultFlag order x b f).readV r =
      match order with
      | .flagLast => if r = VF then flagByte f else if r = x then b else s.readV r
      | .resultLast => if r = x then b else if r = VF then flagByte f else s.readV r := by
  cases order <;> simp [State.writeResultFlag, State.writeFlag]

/-- The two writes of R112 touch nothing but the V registers. -/
theorem State.writeResultFlag_frame (s : State) (order : VfWriteOrder) (x : Reg) (b : Byte) (f : Bool) :
    s.writeResultFlag order x b f = { s with v := (s.writeResultFlag order x b f).v } := by
  cases order <;> rfl

theorem State.writeFlag_frame (s : State) (f : Bool) : s.writeFlag f = { s with v := s.v.set VF (flagByte f) } := rfl

theorem flagByte_eq (f : Bool) : flagByte f = 0 ∨ flagByte f = 1 := by cases f <;> simp [flagByte]

/-! ## Faults -/

@[simp] theorem State.faulted_eq_false {s : State} : s.faulted = false ↔ s.fault.cause = .none := by
  unfold State.faulted
  cases s.fault.cause <;> simp [Cause.code]

@[simp] theorem State.faulted_eq_true {s : State} : s.faulted = true ↔ s.fault.cause ≠ .none := by
  rw [← Bool.not_eq_false, State.faulted_eq_false]

theorem State.takeFault_eq (s : State) (c : Cause) (a : Word) (info : Nat) :
    s.takeFault c a info =
      { s with fault := { cause := c, addr := a, info := info }, trace := s.trace ++ [.fault c a info] } := rfl

/-- `raise` answers the fault entry of R163 and nothing else. -/
theorem raise_next {c : Cause} {info : Nat} {s t : State} (h : raise c info s = .next t) :
    t = s.takeFault c (s.pc - 2) info := by
  simpa [raise] using h.symm

/-! ## Control flow -/

theorem skipIf_next {b : Bool} {s t : State} (h : skipIf b s = .next t) :
    (b = true ∧ t = s.setPc (s.pc + 2)) ∨ (b = false ∧ t = s) := by
  cases b
  · exact .inr ⟨rfl, by simpa [skipIf] using h.symm⟩
  · exact .inl ⟨rfl, by simpa [skipIf] using h.symm⟩

theorem jumpTo_next {w : Word} {s t : State} (h : jumpTo w s = .next t) : t = s.setPc w := by
  simpa [jumpTo] using h.symm

/-- A push and jump either finds the stack full or pushes PC and jumps (R15, R92). -/
theorem pushAndJump_next {limit : Option Nat} {w : Word} {s t : State} (h : pushAndJump limit w s = .next t) :
    (limit = some s.stack.length ∧ t = s.takeFault .stackOverflow (s.pc - 2) 0) ∨
    (limit ≠ some s.stack.length ∧ t = (s.setStack (s.stack ++ [s.pc])).setPc w) := by
  unfold pushAndJump stackFull at h
  split at h
  · next hl => exact .inl ⟨by simpa using hl, raise_next h⟩
  · next hl => exact .inr ⟨by simpa using hl, jumpTo_next h⟩

/-- A pop and jump either finds the stack empty or takes the last pushed value (R15, R90). -/
theorem popAndJump_next {s t : State} (h : popAndJump s = .next t) :
    (s.stack = [] ∧ t = s.takeFault .emptyStack (s.pc - 2) 0) ∨
    (∃ rest a, s.stack = rest ++ [a] ∧ t = (s.setStack rest).setPc a) := by
  unfold popAndJump at h
  split at h
  · next hn => exact .inl ⟨List.getLast?_eq_none_iff.mp hn, raise_next h⟩
  · next a ha =>
    obtain ⟨rest, hr⟩ := List.getLast?_eq_some_iff.mp ha
    exact .inr ⟨rest, a, hr, by simpa [hr] using jumpTo_next h⟩

/-! ## Data memory -/

/-- A guarded access either raises `OutOfBounds` with the highest address or has its effect (R45). -/
theorem withinMemory_eq (base count : Nat) (s : State) (effect : StepResult) :
    (0xFFF < base + count - 1 ∧ 0 < count ∧
      withinMemory base count s effect = .next (s.takeFault .outOfBounds (s.pc - 2) (base + count - 1))) ∨
    ((count = 0 ∨ base + count - 1 ≤ 0xFFF) ∧ withinMemory base count s effect = effect) := by
  unfold withinMemory highestAddr
  split
  · next h => exact .inl ⟨h.2, h.1, rfl⟩
  · next h => exact .inr ⟨by simp only [Config.lastAddr] at h; omega, rfl⟩

theorem bcdDigits_length (b : Byte) : (bcdDigits b).length = 3 := rfl

theorem blockBytes_length (s : State) (x : Reg) : (s.blockBytes x).length = x.val + 1 := by
  simp [State.blockBytes, blockCount, allRegs]; omega

/-- Byte j of a block store is `V[j]` (R47, R124). -/
theorem blockBytes_getElem (s : State) (x j : Reg) (h : j.val ≤ x.val) :
    (s.blockBytes x)[j.val]'(by rw [blockBytes_length]; omega) = s.readV j := by
  have e : ∀ k : Reg, allRegs[k.val]'(by simp [allRegs]) = k := by decide
  simp [State.blockBytes, e]

/-- What the registers hold after a block load (R125). -/
theorem loadBlockRegs_readV (s : State) (base : Nat) (x r : Reg) :
    (s.loadBlockRegs base x).readV r = if r ≤ x then s.mem.read (base + r.val) else s.readV r := by
  fin_cases x <;> fin_cases r <;> simp [State.loadBlockRegs, allRegs, blockCount]

/-- A block load touches nothing but the V registers (R125). -/
theorem loadBlockRegs_frame (s : State) (base : Nat) (x : Reg) :
    s.loadBlockRegs base x = { s with v := (s.loadBlockRegs base x).v } := by
  have h : ∀ (l : List Reg) (t : State), l.foldl (fun t j => t.writeV j (s.mem.read (base + j.val))) t =
      { t with v := (l.foldl (fun t j => t.writeV j (s.mem.read (base + j.val))) t).v } := by
    intro l
    induction l with
    | nil => intro t; rfl
    | cons j l ih => intro t; rw [List.foldl_cons, ih]; rfl
  exact h _ s

end Sys2Proof.Machine
end

