-- ==== Sys2Proof/Laws/Scheduler.lean ====
section
/-! SUPPORT. What a tick and the counting of a call do, and what they leave alone. -/

namespace Sys2Proof.Machine

theorem Config.cadence_pos : 0 < Config.cadence := Nat.succ_pos _

theorem Config.historyCap_pos : 0 < Config.historyCap := Nat.succ_pos _

/-- R177: a timer above 0 falls by exactly 1, at 0 it stays. -/
theorem decTimer_toNat (b : Byte) : (decTimer b).toNat = b.toNat - 1 := by
  unfold decTimer
  split
  · next h => simp [h]
  · next h =>
    have : b.toNat ≠ 0 := fun e => h (BitVec.eq_of_toNat_eq (by simpa using e))
    have := b.isLt
    rw [BitVec.toNat_sub, show BitVec.toNat (1 : Byte) = 1 from rfl]
    omega

/-- R176: the three things a sound update can do. -/
theorem State.soundUpdate_cases (s : State) :
    (s.st ≠ 0 ∧ s.snd = false ∧ s.soundUpdate = { s with snd := true, trace := s.trace ++ [.soundStart] }) ∨
    (s.st = 0 ∧ s.snd = true ∧ s.soundUpdate = { s with snd := false, trace := s.trace ++ [.soundStop] }) ∨
    ((s.st ≠ 0) = (s.snd = true) ∧ s.soundUpdate = s) := by
  unfold State.soundUpdate
  cases hs : s.snd <;> by_cases h : s.st = 0
  · exact .inr (.inr ⟨by simp [h], by simp [h]⟩)
  · exact .inl ⟨h, rfl, by rw [if_pos ⟨h, rfl⟩]; rfl⟩
  · exact .inr (.inl ⟨h, rfl, by rw [if_neg (by simp), if_pos ⟨h, rfl⟩]; rfl⟩)
  · exact .inr (.inr ⟨by simpa using h, by rw [if_neg (by simp), if_neg (fun e => h e.1)]⟩)

/-- A sound update writes SND and the trace only. -/
theorem State.soundUpdate_frame (s : State) :
    s.soundUpdate = { s with snd := s.soundUpdate.snd, trace := s.soundUpdate.trace } := by
  rcases s.soundUpdate_cases with ⟨-, -, h⟩ | ⟨-, -, h⟩ | ⟨-, h⟩ <;> simp [h]

/-- R175, R176: after a sound update SND is 1 exactly when ST is above 0. -/
theorem State.soundUpdate_snd (s : State) : s.soundUpdate.snd = decide (s.st ≠ 0) := by
  rcases s.soundUpdate_cases with ⟨a, -, h⟩ | ⟨a, -, h⟩ | ⟨a, h⟩
  · rw [h, decide_eq_true a]
  · rw [h, decide_eq_false (not_not.mpr a)]
  · rw [h]
    by_cases hz : s.st ≠ 0
    · rw [decide_eq_true hz, ← a]; exact hz
    · rw [decide_eq_false hz, Bool.eq_false_iff, ne_eq, ← a]; exact hz

/-- What a tick writes, and nothing else (R175). -/
theorem State.tick_eq (cap : Nat) (s : State) :
    s.tick cap =
      { s with
        dt := decTimer s.dt, st := decTimer s.st, snd := decide (decTimer s.st ≠ 0)
        hist := remember cap s.hist s.fb
        trace := ((s.setDt (decTimer s.dt)).setSt (decTimer s.st)).soundUpdate.trace ++
          [.frame (glow cap (remember cap s.hist s.fb))] } := by
  have f := State.soundUpdate_frame ((s.setDt (decTimer s.dt)).setSt (decTimer s.st))
  have e := State.soundUpdate_snd ((s.setDt (decTimer s.dt)).setSt (decTimer s.st))
  unfold State.tick
  rw [f]
  simp only [State.composite, State.setHist, State.emit, e]
  rfl

/-- Counting a call leaves the CPU, the framebuffer, the keys and the fault record alone (R87). -/
theorem State.countCall_frame (cadence cap : Nat) (s : State) :
    s.countCall cadence cap =
      { s with
        dt := (s.countCall cadence cap).dt, st := (s.countCall cadence cap).st
        snd := (s.countCall cadence cap).snd, hist := (s.countCall cadence cap).hist
        trace := (s.countCall cadence cap).trace, ctr := (s.countCall cadence cap).ctr } := by
  unfold State.countCall
  split
  · rw [State.tick_eq]; rfl
  · rfl

theorem State.countCall_ctr (cadence cap : Nat) (s : State) :
    (s.countCall cadence cap).ctr = if s.ctr + 1 = cadence then 0 else s.ctr + 1 := by
  unfold State.countCall
  split
  · rw [State.tick_eq]; rfl
  · rfl

/-- The history stays within K. -/
theorem State.countCall_hist_length (cadence cap : Nat) (s : State) (h : s.hist.length ≤ cap) :
    (s.countCall cadence cap).hist.length ≤ cap := by
  unfold State.countCall
  split
  · rw [State.tick_eq]; exact remember_length cap _ _ h
  · exact h

end Sys2Proof.Machine
end

