-- ==== Sys2Proof/Laws/Cycle.lean ====
section
/-! SUPPORT. Everything a `StepCall` can do, case by case in the order of spec/60_exceptions.md R166. -/

namespace Sys2Proof.Machine

theorem State.fetch_eq_none {s : State} : s.fetch = none ↔ 0xFFE < s.pc.toNat := by
  unfold State.fetch
  split <;> simp_all

theorem State.fetch_eq_some {s : State} {w : Word} :
    s.fetch = some w ↔ s.pc.toNat ≤ 0xFFE ∧ w = s.mem.readWord s.pc.toNat := by
  unfold State.fetch
  split
  · next h =>
    simp only [lastFetch] at h
    simp only [reduceCtorEq, false_iff]
    omega
  · next h =>
    simp only [lastFetch] at h
    simp only [Option.some.injEq]
    exact ⟨fun e => ⟨by omega, e.symm⟩, fun e => e.2.symm⟩

/-- R81: what the CPU's part of a call can do. -/
theorem cpuStep_cases {s t : State} (h : cpuStep s = .next t) :
    (s.kwArmed = true ∧ t = s) ∨
    (s.kwArmed = false ∧ 0xFFE < s.pc.toNat ∧ t = s.takeFault .fetchOutOfBounds s.pc (s.pc.toNat + 1)) ∨
    (s.kwArmed = false ∧ s.pc.toNat ≤ 0xFFE ∧ decodeWord (s.mem.readWord s.pc.toNat) = none ∧
      t = s.advance.emit (.diag (s.mem.readWord s.pc.toNat) s.pc)) ∨
    (s.kwArmed = false ∧ s.pc.toNat ≤ 0xFFE ∧
      ∃ i, decodeWord (s.mem.readWord s.pc.toNat) = some i ∧ exec i s.advance = .next t) := by
  unfold cpuStep at h
  split at h
  · next ha => exact .inl ⟨ha, by simpa using h.symm⟩
  · next ha =>
    have ha : s.kwArmed = false := by simpa using ha
    split at h
    · next hf => exact .inr (.inl ⟨ha, State.fetch_eq_none.mp hf, by simpa using h.symm⟩)
    · next w hf =>
      obtain ⟨hpc, rfl⟩ := State.fetch_eq_some.mp hf
      unfold dispatchWord at h
      split at h
      · next hd => exact .inr (.inr (.inl ⟨ha, hpc, hd, by simpa using h.symm⟩))
      · next i hd => exact .inr (.inr (.inr ⟨ha, hpc, i, hd, h⟩))

/-- R80: a call on a faulted machine does nothing, any other is the CPU's part and then the counting. -/
theorem stepCallWith_cases {cadence cap : Nat} {s u : State} (h : stepCallWith cadence cap s = .next u) :
    (s.faulted = true ∧ u = s) ∨
    (s.faulted = false ∧ ∃ t, cpuStep s = .next t ∧
      ((t.faulted = true ∧ u = t) ∨ (t.faulted = false ∧ u = t.countCall cadence cap))) := by
  unfold stepCallWith at h
  split at h
  · next hf => exact .inl ⟨hf, by simpa using h.symm⟩
  · next hf =>
    refine .inr ⟨by simpa using hf, ?_⟩
    split at h
    · next t ht =>
      refine ⟨t, ht, ?_⟩
      obtain rfl : t.endCall cadence cap = u := by simpa using h
      unfold State.endCall
      cases hft : t.faulted <;> simp
    · simp at h
    · simp at h

theorem step_cases {s u : State} (h : step s = .next u) :
    (s.faulted = true ∧ u = s) ∨
    (s.faulted = false ∧ ∃ t, cpuStep s = .next t ∧
      ((t.faulted = true ∧ u = t) ∨
        (t.faulted = false ∧ u = t.countCall Config.cadence Config.historyCap))) :=
  stepCallWith_cases h

end Sys2Proof.Machine
end

