-- ==== Sys2Proof/Laws/PerInstr.lean ====
section
/-! SUPPORT. One statement per instruction as syntax: its word matches its own row of the opcode map
(spec/30_encoding.md R64: `w & mask = match`). -/

namespace Sys2Proof.Laws.EncodeMatches

/-- The word of an instruction matches the row the instruction belongs to. -/
def Statement (i : Instr) : Prop := i.op.matchesWord (encode i) = true


/-! ## The operand bits of a format lie outside the bits it fixes (R62) -/

theorem or_and (a b m : Word) : (a ||| b) &&& m = (a &&& m) ||| (b &&& m) := by
  ext k hk
  simp [Bool.and_or_distrib_right]

/-- A row's pattern lies inside the bits its format fixes. -/
theorem pattern_masked (o : Op) : o.pattern &&& o.mask = o.pattern := by cases o <;> decide

theorem matches_of_operands_outside {p b m : Word} (hb : b &&& m = 0) (hp : p &&& m = p) :
    ((p ||| b) &&& m == p) = true := by
  rw [or_and, hb, hp]
  simp

theorem addr_outside (addr : BitVec 12) : addr.setWidth 16 &&& Format.A.mask = 0 := by
  ext k hk
  simp only [Format.mask, BitVec.getElem_and, BitVec.getElem_setWidth]
  interval_cases k <;> simp

theorem kk_outside (kk : Byte) : kk.setWidth 16 &&& Format.XK.mask = 0 := by
  ext k hk
  simp only [Format.mask, BitVec.getElem_and, BitVec.getElem_setWidth]
  interval_cases k <;> simp

theorem n_outside (n : BitVec 4) : n.setWidth 16 &&& Format.XYN.mask = 0 := by
  ext k hk
  simp only [Format.mask, BitVec.getElem_and, BitVec.getElem_setWidth]
  interval_cases k <;> simp

theorem x_outside (x : Reg) : placeX x &&& Format.X.mask = 0 := by revert x; decide

theorem x_outside_xy (x : Reg) : placeX x &&& Format.XY.mask = 0 := by revert x; decide

theorem xk_outside (x : Reg) (kk : Byte) : (placeX x ||| kk.setWidth 16) &&& Format.XK.mask = 0 := by
  have hx : placeX x &&& Format.XK.mask = 0 := by revert x; decide
  rw [or_and, hx, kk_outside]; rfl

theorem xy_outside (x y : Reg) : (placeX x ||| placeY y) &&& Format.XY.mask = 0 := by revert x y; decide

theorem xyn_outside (x y : Reg) (n : BitVec 4) :
    (placeX x ||| placeY y ||| n.setWidth 16) &&& Format.XYN.mask = 0 := by
  have hxy : (placeX x ||| placeY y) &&& Format.XYN.mask = 0 := by revert x y; decide
  rw [or_and, hxy, n_outside]; rfl

/-! ## One lemma per constructor -/

theorem cls : Statement (.cls) :=
  matches_of_operands_outside (BitVec.zero_and) (pattern_masked _)

theorem ret : Statement (.ret) :=
  matches_of_operands_outside (BitVec.zero_and) (pattern_masked _)

theorem jp (addr : BitVec 12) : Statement (.jp addr) :=
  matches_of_operands_outside (addr_outside addr) (pattern_masked _)

theorem call (addr : BitVec 12) : Statement (.call addr) :=
  matches_of_operands_outside (addr_outside addr) (pattern_masked _)

theorem seImm (x : Reg) (kk : Byte) : Statement (.seImm x kk) :=
  matches_of_operands_outside (xk_outside x kk) (pattern_masked _)

theorem sneImm (x : Reg) (kk : Byte) : Statement (.sneImm x kk) :=
  matches_of_operands_outside (xk_outside x kk) (pattern_masked _)

theorem seReg (x : Reg) (y : Reg) : Statement (.seReg x y) :=
  matches_of_operands_outside (xy_outside x y) (pattern_masked _)

theorem ldImm (x : Reg) (kk : Byte) : Statement (.ldImm x kk) :=
  matches_of_operands_outside (xk_outside x kk) (pattern_masked _)

theorem addImm (x : Reg) (kk : Byte) : Statement (.addImm x kk) :=
  matches_of_operands_outside (xk_outside x kk) (pattern_masked _)

theorem ldReg (x : Reg) (y : Reg) : Statement (.ldReg x y) :=
  matches_of_operands_outside (xy_outside x y) (pattern_masked _)

theorem orReg (x : Reg) (y : Reg) : Statement (.orReg x y) :=
  matches_of_operands_outside (xy_outside x y) (pattern_masked _)

theorem andReg (x : Reg) (y : Reg) : Statement (.andReg x y) :=
  matches_of_operands_outside (xy_outside x y) (pattern_masked _)

theorem xorReg (x : Reg) (y : Reg) : Statement (.xorReg x y) :=
  matches_of_operands_outside (xy_outside x y) (pattern_masked _)

theorem addReg (x : Reg) (y : Reg) : Statement (.addReg x y) :=
  matches_of_operands_outside (xy_outside x y) (pattern_masked _)

theorem subReg (x : Reg) (y : Reg) : Statement (.subReg x y) :=
  matches_of_operands_outside (xy_outside x y) (pattern_masked _)

theorem shr (x : Reg) : Statement (.shr x) :=
  matches_of_operands_outside (x_outside_xy x) (pattern_masked _)

theorem subnReg (x : Reg) (y : Reg) : Statement (.subnReg x y) :=
  matches_of_operands_outside (xy_outside x y) (pattern_masked _)

theorem shl (x : Reg) : Statement (.shl x) :=
  matches_of_operands_outside (x_outside_xy x) (pattern_masked _)

theorem sneReg (x : Reg) (y : Reg) : Statement (.sneReg x y) :=
  matches_of_operands_outside (xy_outside x y) (pattern_masked _)

theorem ldI (addr : BitVec 12) : Statement (.ldI addr) :=
  matches_of_operands_outside (addr_outside addr) (pattern_masked _)

theorem jpV0 (addr : BitVec 12) : Statement (.jpV0 addr) :=
  matches_of_operands_outside (addr_outside addr) (pattern_masked _)

theorem rnd (x : Reg) (kk : Byte) : Statement (.rnd x kk) :=
  matches_of_operands_outside (xk_outside x kk) (pattern_masked _)

theorem drw (x : Reg) (y : Reg) (n : BitVec 4) : Statement (.drw x y n) :=
  matches_of_operands_outside (xyn_outside x y n) (pattern_masked _)

theorem skp (x : Reg) : Statement (.skp x) :=
  matches_of_operands_outside (x_outside x) (pattern_masked _)

theorem sknp (x : Reg) : Statement (.sknp x) :=
  matches_of_operands_outside (x_outside x) (pattern_masked _)

theorem ldVxDT (x : Reg) : Statement (.ldVxDT x) :=
  matches_of_operands_outside (x_outside x) (pattern_masked _)

theorem ldVxK (x : Reg) : Statement (.ldVxK x) :=
  matches_of_operands_outside (x_outside x) (pattern_masked _)

theorem ldDTVx (x : Reg) : Statement (.ldDTVx x) :=
  matches_of_operands_outside (x_outside x) (pattern_masked _)

theorem ldSTVx (x : Reg) : Statement (.ldSTVx x) :=
  matches_of_operands_outside (x_outside x) (pattern_masked _)

theorem addI (x : Reg) : Statement (.addI x) :=
  matches_of_operands_outside (x_outside x) (pattern_masked _)

theorem ldF (x : Reg) : Statement (.ldF x) :=
  matches_of_operands_outside (x_outside x) (pattern_masked _)

theorem ldB (x : Reg) : Statement (.ldB x) :=
  matches_of_operands_outside (x_outside x) (pattern_masked _)

theorem storeBlock (x : Reg) : Statement (.storeBlock x) :=
  matches_of_operands_outside (x_outside x) (pattern_masked _)

theorem loadBlock (x : Reg) : Statement (.loadBlock x) :=
  matches_of_operands_outside (x_outside x) (pattern_masked _)

/-- The case split over all instructions. -/
theorem all (i : Instr) : Statement i := by
  cases i
  case cls => exact Sys2Proof.Laws.EncodeMatches.cls
  case ret => exact Sys2Proof.Laws.EncodeMatches.ret
  case jp addr => exact Sys2Proof.Laws.EncodeMatches.jp addr
  case call addr => exact Sys2Proof.Laws.EncodeMatches.call addr
  case seImm x kk => exact Sys2Proof.Laws.EncodeMatches.seImm x kk
  case sneImm x kk => exact Sys2Proof.Laws.EncodeMatches.sneImm x kk
  case seReg x y => exact Sys2Proof.Laws.EncodeMatches.seReg x y
  case ldImm x kk => exact Sys2Proof.Laws.EncodeMatches.ldImm x kk
  case addImm x kk => exact Sys2Proof.Laws.EncodeMatches.addImm x kk
  case ldReg x y => exact Sys2Proof.Laws.EncodeMatches.ldReg x y
  case orReg x y => exact Sys2Proof.Laws.EncodeMatches.orReg x y
  case andReg x y => exact Sys2Proof.Laws.EncodeMatches.andReg x y
  case xorReg x y => exact Sys2Proof.Laws.EncodeMatches.xorReg x y
  case addReg x y => exact Sys2Proof.Laws.EncodeMatches.addReg x y
  case subReg x y => exact Sys2Proof.Laws.EncodeMatches.subReg x y
  case shr x => exact Sys2Proof.Laws.EncodeMatches.shr x
  case subnReg x y => exact Sys2Proof.Laws.EncodeMatches.subnReg x y
  case shl x => exact Sys2Proof.Laws.EncodeMatches.shl x
  case sneReg x y => exact Sys2Proof.Laws.EncodeMatches.sneReg x y
  case ldI addr => exact Sys2Proof.Laws.EncodeMatches.ldI addr
  case jpV0 addr => exact Sys2Proof.Laws.EncodeMatches.jpV0 addr
  case rnd x kk => exact Sys2Proof.Laws.EncodeMatches.rnd x kk
  case drw x y n => exact Sys2Proof.Laws.EncodeMatches.drw x y n
  case skp x => exact Sys2Proof.Laws.EncodeMatches.skp x
  case sknp x => exact Sys2Proof.Laws.EncodeMatches.sknp x
  case ldVxDT x => exact Sys2Proof.Laws.EncodeMatches.ldVxDT x
  case ldVxK x => exact Sys2Proof.Laws.EncodeMatches.ldVxK x
  case ldDTVx x => exact Sys2Proof.Laws.EncodeMatches.ldDTVx x
  case ldSTVx x => exact Sys2Proof.Laws.EncodeMatches.ldSTVx x
  case addI x => exact Sys2Proof.Laws.EncodeMatches.addI x
  case ldF x => exact Sys2Proof.Laws.EncodeMatches.ldF x
  case ldB x => exact Sys2Proof.Laws.EncodeMatches.ldB x
  case storeBlock x => exact Sys2Proof.Laws.EncodeMatches.storeBlock x
  case loadBlock x => exact Sys2Proof.Laws.EncodeMatches.loadBlock x

end Sys2Proof.Laws.EncodeMatches
end

