-- ==== Sys2Proof/Laws/RunEnd.lean ====
section
/-! SUPPORT. What a machine at a stop of spec/70_reset_and_hazards.md R212 can do. -/

namespace Sys2Proof.Machine

/-- R212 (c): the word at PC is `JP` to PC. -/
theorem State.selfJump_iff {s : State} :
    s.selfJump = true ↔ s.pc.toNat ≤ 0xFFE ∧
      decodeWord (s.mem.readWord s.pc.toNat) = some (.jp (s.pc.setWidth 12)) := by
  unfold State.selfJump
  cases hf : s.fetch with
  | none =>
    have := State.fetch_eq_none.mp hf
    simp only [Option.bind_none, beq_iff_eq, reduceCtorEq, false_iff]
    omega
  | some w =>
    obtain ⟨hpc, rfl⟩ := State.fetch_eq_some.mp hf
    simp [hpc]

/-- The stop is read off four things: FAULT, the key-wait, PC and memory. -/
theorem State.runStop_congr {s t : State} (hf : t.fault = s.fault) (hk : t.kwArmed = s.kwArmed) (hp : t.pc = s.pc)
    (hm : t.mem = s.mem) : t.runStop = s.runStop := by
  have h1 : t.faulted = s.faulted := by rw [State.faulted, State.faulted, hf]
  have h2 : t.selfJump = s.selfJump := by rw [State.selfJump, State.selfJump, State.fetch, State.fetch, hp, hm]
  rw [State.runStop, State.runStop, h1, hk, h2]

@[simp] theorem State.countCall_runStop (cadence cap : Nat) (s : State) :
    (s.countCall cadence cap).runStop = s.runStop := by
  rw [State.countCall_frame]
  exact State.runStop_congr rfl rfl rfl rfl

theorem State.runStop_faulted {s : State} : s.runStop = some .faulted ↔ s.faulted = true := by
  unfold State.runStop
  split
  · simp_all
  · split
    · simp_all
    · split <;> simp_all

theorem State.runStop_keyWait {s : State} : s.runStop = some .keyWait ↔ s.faulted = false ∧ s.kwArmed = true := by
  unfold State.runStop
  split
  · simp_all
  · split
    · simp_all
    · split <;> simp_all

theorem State.runStop_selfJump {s : State} :
    s.runStop = some .selfJump ↔ s.faulted = false ∧ s.kwArmed = false ∧ s.selfJump = true := by
  unfold State.runStop
  split
  · simp_all
  · split
    · simp_all
    · split <;> simp_all

/-- `JP a` at a, run on the advanced state, gives back the state before the fetch (R83, R91). -/
theorem State.cpuStep_selfJump {s : State} (hk : s.kwArmed = false) (hj : s.selfJump = true) : cpuStep s = .next s := by
  obtain ⟨hpc, hd⟩ := State.selfJump_iff.mp hj
  have hw : addrWord (s.pc.setWidth 12) = s.pc := by
    apply BitVec.eq_of_toNat_eq
    simp only [addrWord, BitVec.toNat_setWidth]
    omega
  rw [cpuStep, if_neg (by simp [hk]), State.fetch_eq_some.mpr ⟨hpc, rfl⟩]
  simp only [dispatchWord, hd, exec, execJp, jumpTo, hw]
  rfl

/-- R212: at a stop a StepCall does nothing (a), or is only counted (b, c). -/
theorem step_at_stop {s : State} {c : RunStop} (h : s.runStop = some c) :
    step s = .next (match c with
      | .faulted => s
      | .keyWait => s.countCall Config.cadence Config.historyCap
      | .selfJump => s.countCall Config.cadence Config.historyCap) := by
  have counted (hf : s.faulted = false) (hc : cpuStep s = .next s) :
      step s = .next (s.countCall Config.cadence Config.historyCap) := by
    simp only [step, stepCallWith, hf, hc, State.endCall, Bool.false_eq_true, if_false]
  cases c with
  | faulted => simp [step, stepCallWith, State.runStop_faulted.mp h]
  | keyWait =>
    obtain ⟨hf, hk⟩ := State.runStop_keyWait.mp h
    exact counted hf (by simp [cpuStep, hk])
  | selfJump =>
    obtain ⟨hf, hk, hj⟩ := State.runStop_selfJump.mp h
    exact counted hf (State.cpuStep_selfJump hk hj)

@[simp] theorem runCalls_zero (s : State) : runCalls 0 s = .next s := rfl

theorem runCalls_succ {s t : State} (n : Nat) (h : step s = .next t) : runCalls (n + 1) s = runCalls n t := by
  simp only [runCalls, List.replicate_succ, runOps, applyOp, h]

end Sys2Proof.Machine
end

