-- ==== Sys2Proof/Tests/Slice0.lean ====
section
/-! SUPPORT. The model's own tests: the smoke test of WellFormed, one decoded word per instruction, single steps with
results from spec/95_test_vectors.md (cited as "95" and its section), and a witness for the hypotheses of each
statement. -/

namespace Sys2Proof.Tests

open Sys2Proof.Machine

/-! ## Well-formedness: an ill-formed term for each check -/

theorem test_program_too_long_refused : programWellFormed (List.replicate 0xE01 0xAB) = false := by
  rw [programWellFormed, List.length_replicate]
  rfl

theorem test_program_of_full_size_accepted : programWellFormed (List.replicate 0xE00 0xAB) = true := by
  rw [programWellFormed, List.length_replicate]
  rfl

theorem test_index_bits_13_refused : ({ Config.params with indexBits := 13 } : Params).wellFormed = false := rfl

theorem test_stack_limit_0_refused : ({ Config.params with stackLimit := some 0 } : Params).wellFormed = false := rfl

theorem test_font_of_79_bytes_refused :
    ({ Config.params with font := List.replicate 79 0 } : Params).wellFormed = false := rfl

theorem test_cadence_0_refused : ({ Config.params with cadence := 0 } : Params).cadenceOk = false := rfl

theorem test_history_0_refused : ({ Config.params with historyCap := 0 } : Params).cadenceOk = false := by
  simp [Params.cadenceOk]

theorem test_register_16_refused : regOperand? 16 = none := by decide

theorem test_address_4096_refused : immOperand? 12 0x1000 = none := by decide

theorem test_this_hardware_accepted : Config.params.wellFormed = true := by
  have h1 : Config.params.indexBitsOk = true := rfl
  have h2 : Config.params.stackLimitOk = true := rfl
  have h3 : Config.params.fontOk = true := rfl
  have h4 : Config.params.cadenceOk = true := by
    simp [Params.cadenceOk, Config.params, Config.cadence, Config.historyCap]
  simp [Params.wellFormed, h1, h2, h3, h4]

/-! ## Decoding: words written out field by field from R64 (fam, x, y, n) -/

/-- A word from its four 4-bit fields `w[15:12]`, `w[11:8]`, `w[7:4]`, `w[3:0]` (R61). -/
def word (fam x y n : BitVec 4) : Word := fam ++ x ++ y ++ n

theorem test_decode_control_flow :
    decodeWord (word 0x0 0x0 0xE 0xE) = some .ret ∧ decodeWord (word 0x1 0x2 0x0 0x4) = some (.jp 0x204) ∧
    decodeWord (word 0x2 0x2 0x1 0x0) = some (.call 0x210) ∧
    decodeWord (word 0x3 0xA 0x7 0xF) = some (.seImm 0xA 0x7F) ∧
    decodeWord (word 0x4 0x3 0x1 0x1) = some (.sneImm 3 0x11) ∧
    decodeWord (word 0x5 0x1 0x2 0x0) = some (.seReg 1 2) ∧
    decodeWord (word 0x9 0x1 0x2 0x0) = some (.sneReg 1 2) ∧
    decodeWord (word 0xB 0xF 0xF 0xF) = some (.jpV0 0xFFF) := by decide

theorem test_decode_alu :
    decodeWord (word 0x6 0xF 0x3 0x7) = some (.ldImm 0xF 0x37) ∧
    decodeWord (word 0x7 0x0 0xF 0xF) = some (.addImm 0 0xFF) ∧
    decodeWord (word 0x8 0x0 0x1 0x0) = some (.ldReg 0 1) ∧ decodeWord (word 0x8 0x0 0x1 0x1) = some (.orReg 0 1) ∧
    decodeWord (word 0x8 0x0 0x1 0x2) = some (.andReg 0 1) ∧ decodeWord (word 0x8 0x0 0x1 0x3) = some (.xorReg 0 1) ∧
    decodeWord (word 0x8 0x1 0x2 0x4) = some (.addReg 1 2) ∧ decodeWord (word 0x8 0x1 0x2 0x5) = some (.subReg 1 2) ∧
    decodeWord (word 0x8 0x2 0xF 0x6) = some (.shr 2) ∧ decodeWord (word 0x8 0x1 0x2 0x7) = some (.subnReg 1 2) ∧
    decodeWord (word 0x8 0x2 0x0 0xE) = some (.shl 2) ∧ decodeWord (word 0xC 0x3 0x0 0xF) = some (.rnd 3 0x0F) := by
  decide

theorem test_decode_index_memory :
    decodeWord (word 0xA 0x3 0x0 0x0) = some (.ldI 0x300) ∧ decodeWord (word 0xF 0x1 0x1 0xE) = some (.addI 1) ∧
    decodeWord (word 0xF 0x4 0x2 0x9) = some (.ldF 4) ∧ decodeWord (word 0xF 0x0 0x3 0x3) = some (.ldB 0) ∧
    decodeWord (word 0xF 0x2 0x5 0x5) = some (.storeBlock 2) ∧
    decodeWord (word 0xF 0x1 0x6 0x5) = some (.loadBlock 1) := by decide

theorem test_decode_display :
    decodeWord (word 0x0 0x0 0xE 0x0) = some .cls ∧ decodeWord (word 0xD 0x1 0x2 0xF) = some (.drw 1 2 15) := by decide

theorem test_decode_timer_key :
    decodeWord (word 0xE 0x1 0x9 0xE) = some (.skp 1) ∧ decodeWord (word 0xE 0x2 0xA 0x1) = some (.sknp 2) ∧
    decodeWord (word 0xF 0x2 0x0 0x7) = some (.ldVxDT 2) ∧ decodeWord (word 0xF 0x1 0x0 0xA) = some (.ldVxK 1) ∧
    decodeWord (word 0xF 0x1 0x1 0x5) = some (.ldDTVx 1) ∧ decodeWord (word 0xF 0x3 0x1 0x8) = some (.ldSTVx 3) := by
  decide

/-- 95 section 2.1: the words of its table that are unknown, the first one from its bytes. -/
theorem test_decode_unknown :
    (([0x00E1, 0x00EF, 0x0000, 0x0123, 0x0FFF, 0x5AB1, 0x8AB8, 0x8ABD, 0x8ABF, 0x9AB1, 0xE19F, 0xE1A0, 0xE100,
      0xF166, 0xF100, 0xF175] : List Word).all (fun w => decodeWord w == none)) = true ∧
    decode [0x00, 0xE1] = .error (.unknownInstruction 0x00E1) ∧ decode [0x12] = .error .truncated := by
  refine ⟨by decide, rfl, rfl⟩

/-- The opcode table's numbering, its word laid out big-endian. -/
theorem test_decode_table_word :
    decodeTableWord 16 0x8AB7 = some (.subnReg 0xA 0xB) ∧ decodeTableWord 16 0x5AB1 = none := by decide

/-! ## Single instructions (95 sections 1 and 2) -/

/-- The state an instruction answers. -/
def nextOf : StepResult → Option State
  | .next s => some s
  | .fault _ => none
  | .refused _ => none

/-- The value of a field after an instruction. -/
def after {α : Type} (i : Instr) (s : State) (f : State → α) : Option α := (nextOf (exec i s)).map f

/-- The reset state with two registers set. -/
def two (x : Reg) (a : Byte) (y : Reg) (b : Byte) : State := (State.reset.writeV x a).writeV y b

/-- The pair (Vx, VF) after an instruction. -/
def vAndVF (x : Reg) (s : State) : Byte × Byte := (s.v[x], s.v[VF])

theorem test_ret : after .ret ((State.reset.setStack [0x300, 0x206]).setPc 0x214) (fun s => (s.pc, s.stack)) =
    some (0x206, [0x300]) := by decide

/-- `00EE` at 0x200 on the empty stack: FAULT = (1, 0x200, 0), PC = 0x202. -/
theorem test_ret_empty_stack : after .ret (State.reset.setPc 0x202) (fun s => (s.pc, s.fault, s.trace)) =
    some (0x202, { cause := .emptyStack, addr := 0x200, info := 0 }, [.fault .emptyStack 0x200 0]) := by decide

theorem test_jp : after (.jp 0x204) State.reset (·.pc) = some 0x204 := by decide

theorem test_call : after (.call 0x210) (State.reset.setPc 0x206) (fun s => (s.pc, s.stack)) =
    some (0x210, [0x206]) := by decide

/-- `2200` with STACK_LIMIT = 2 on a stack of two: FAULT = (4, 0x200, 0). -/
theorem test_call_limit_2 :
    (nextOf (pushAndJump (some 2) 0x200 ((State.reset.setStack [0x202, 0x202]).setPc 0x202))).map
      (fun s => (s.stack, s.pc, s.fault)) =
    some ([0x202, 0x202], 0x202, { cause := .stackOverflow, addr := 0x200, info := 0 }) := by decide

theorem test_se_imm : after (.seImm 0 5) ((State.reset.writeV 0 5).setPc 0x204) (·.pc) = some 0x206 ∧
    after (.seImm 0 6) ((State.reset.writeV 0 5).setPc 0x204) (·.pc) = some 0x204 := by decide

theorem test_sne_imm : after (.sneImm 0 6) ((State.reset.writeV 0 5).setPc 0x204) (·.pc) = some 0x206 ∧
    after (.sneImm 0 5) ((State.reset.writeV 0 5).setPc 0x204) (·.pc) = some 0x204 := by decide

theorem test_se_reg : after (.seReg 0 1) ((two 0 5 1 5).setPc 0x206) (·.pc) = some 0x208 ∧
    after (.seReg 0 1) ((two 0 5 1 4).setPc 0x206) (·.pc) = some 0x206 := by decide

theorem test_sne_reg : after (.sneReg 0 1) ((two 0 5 1 5).setPc 0x206) (·.pc) = some 0x206 ∧
    after (.sneReg 0 1) ((two 0 5 1 4).setPc 0x206) (·.pc) = some 0x208 := by decide

/-- `60FF BFFF`: PC = 0x10FE, no mask, no wrap. -/
theorem test_jp_v0 : after (.jpV0 0xFFF) (State.reset.writeV 0 0xFF) (·.pc) = some 0x10FE := by decide

theorem test_ld_imm : after (.ldImm 0xF 0x37) State.reset (vAndVF 0xF) = some (0x37, 0x37) := by decide

theorem test_add_imm_wraps : after (.addImm 0 2) (two 0 0xFF VF 7) (vAndVF 0) = some (1, 7) := by decide

theorem test_ld_reg : after (.ldReg 0 1) (State.reset.writeV 1 0x2A) (vAndVF 0) = some (0x2A, 0) := by decide

/-- `6F01 60FF 8001`: VF is not cleared by the logic operations. -/
theorem test_or : after (.orReg 0 1) ((two 0 0xF0 1 0x0F).writeV VF 1) (vAndVF 0) = some (0xFF, 1) := by decide

theorem test_and : after (.andReg 0 1) (two 0 0xF3 1 0x3F) (vAndVF 0) = some (0x33, 0) := by decide

theorem test_xor : after (.xorReg 0 1) (two 0 0xFF 1 0x0F) (vAndVF 0) = some (0xF0, 0) := by decide

/-- S1 and `6F01 6005 80F4`: y = 0xF adds the old flag. -/
theorem test_add : after (.addReg 0 1) (two 0 0xFF 1 1) (vAndVF 0) = some (0, 1) ∧
    after (.addReg 0 VF) (two 0 5 VF 1) (vAndVF 0) = some (6, 0) := by decide

/-- `6FFF 6001 8F04` with both values of VF_WRITE_ORDER. -/
theorem test_add_into_vf : after (.addReg VF 0) (two VF 0xFF 0 1) (vAndVF VF) = some (1, 1) ∧
    ((two VF 0xFF 0 1).writeResultFlag .resultLast VF 0 true).v[VF] = 0 := by decide

/-- S3, S4. -/
theorem test_sub : after (.subReg 0 1) (two 0 5 1 5) (vAndVF 0) = some (0, 1) ∧
    after (.subReg 0 1) (two 0 3 1 5) (vAndVF 0) = some (0xFE, 0) := by decide

theorem test_shr : after (.shr 2) (State.reset.writeV 2 5) (vAndVF 2) = some (2, 1) ∧
    after (.shr VF) (State.reset.writeV VF 3) (vAndVF VF) = some (1, 1) := by decide

theorem test_subn : after (.subnReg 0 1) (two 0 3 1 5) (vAndVF 0) = some (2, 1) ∧
    after (.subnReg 0 1) (two 0 5 1 3) (vAndVF 0) = some (0xFE, 0) := by decide

theorem test_shl : after (.shl 2) (State.reset.writeV 2 0x81) (vAndVF 2) = some (2, 1) ∧
    after (.shl 2) (State.reset.writeV 2 0x7F) (vAndVF 2) = some (0xFE, 0) := by decide

/-- `C03C` with rnd = 0xA5; and one free draw is counted. -/
theorem test_rnd : (nextOf (rndWith 0xA5 0 0x3C State.reset)).map (vAndVF 0) = some (0x24, 0) ∧
    after (.rnd 0 0) State.reset (·.draws) = some 1 := by decide

theorem test_ld_i : after (.ldI 0xFFF) State.reset (·.i) = some 0xFFF := by decide

/-- State I = 0xFFFF, VF = 1, `FF1E`: the addend is the old VF, the flag is written last. -/
theorem test_add_i : after (.addI VF) ((State.reset.writeV VF 1).setI 0xFFFF) (fun s => (s.i, s.v[VF])) = some (0, 1) ∧
    after (.addI 0) ((State.reset.writeV 0 1).setI 0xFFF) (fun s => (s.i, s.v[VF])) = some (0x1000, 0) := by decide

/-- `AFFF 6001 F01E` with INDEX_BITS = 12. -/
theorem test_add_i_12_bits : (nextOf (addIndex 12 0 ((State.reset.writeV 0 1).setI 0xFFF))).map
    (fun s => (s.i, s.v[VF])) = some (0, 1) := by decide

theorem test_ld_f : after (.ldF 0) (State.reset.writeV 0 0x0A) (·.i) = some 0x032 ∧
    after (.ldF 0) (State.reset.writeV 0 0xFF) (·.i) = some 0x4FB := by decide

/-- `AFFD 60EA F033`: the last three bytes, no fault. -/
theorem test_ld_b : after (.ldB 0) ((State.reset.writeV 0 0xEA).setI 0xFFD) (fun s => s.mem.readBytes 0xFFD 3) =
    some [2, 3, 4] := by decide

/-- `AFFE F033`: FAULT = (2, 0x202, 0x1000), PC = 0x204, nothing written. -/
theorem test_ld_b_faults : after (.ldB 0) ((State.reset.setI 0xFFE).setPc 0x204) (fun s => (s.pc, s.fault, s.mem)) =
    some (0x204, { cause := .outOfBounds, addr := 0x202, info := 0x1000 }, []) := by decide

/-- `F255` stores V0..V2 and not V3. -/
theorem test_store_block : after (.storeBlock 2) (((two 0 0x11 1 0x22).writeV 2 0x33).writeV 3 0x44 |>.setI 0x300)
    (fun s => (s.mem.readBytes 0x300 4, s.i)) = some ([0x11, 0x22, 0x33, 0], 0x300) := by decide

/-- `AFFF 6177 F155`: V0 is not stored either. -/
theorem test_store_block_faults :
    after (.storeBlock 1) (((State.reset.writeV 1 0x77).setI 0xFFF).setPc 0x206) (fun s => (s.fault, s.mem)) =
    some ({ cause := .outOfBounds, addr := 0x204, info := 0x1000 }, []) := by decide

/-- `A200 F165` on the program's own bytes A2 00. -/
theorem test_load_block : after (.loadBlock 1) ((State.reset.setMem [(0x200, 0xA2)]).setI 0x200 |>.writeV 2 9)
    (fun s => (s.v[(0 : Reg)], s.v[(1 : Reg)], s.v[(2 : Reg)], s.i)) = some (0xA2, 0, 9, 0x200) := by decide

theorem test_load_block_faults : after (.loadBlock 1) ((State.reset.setI 0xFFF).setPc 0x204) (fun s => (s.fault.info, s.v)) =
    some (0x1000, State.reset.v) := by decide

/-- The on-pixels and VF after a draw of one row byte at 0x300 on the blank framebuffer. -/
def drawnByte (b : Byte) (x y : Reg) (cx cy : Byte) : Option (List (Nat × Nat) × Byte) :=
  after (.drw x y 1) (((two x cx y cy).setMem (Memory.write [] 0x300 b)).setI 0x300) (fun s => (onPixels s.fb, s.v[VF]))

/-- 0x80 is the leftmost pixel; columns 64..67 are clipped. -/
theorem test_drw : drawnByte 0x80 0 1 5 5 = some ([(5, 5)], 0) ∧
    drawnByte 0xFF 0 1 60 0 = some ([(60, 0), (61, 0), (62, 0), (63, 0)], 0) := by decide

/-- The sprite 3C drawn over F0 at (0, 0): (2, 0), (3, 0) turn off, VF = 1. -/
theorem test_drw_collides : after (.drw 0 0 1)
    (((State.reset.setMem [(0x300, 0x3C)]).setI 0x300).setFb (drawSprite 0 0 [0xF0] Framebuffer.clear).1)
    (fun s => (onPixels s.fb, s.v[VF])) = some ([(0, 0), (1, 0), (4, 0), (5, 0)], 1) := by decide

theorem test_cls : after .cls (State.reset.setFb (drawSprite 0 0 [0xFF] Framebuffer.clear).1) (fun s => onPixels s.fb) =
    some [] := by decide

/-- V0 = 0x1A tests key 0xA. -/
theorem test_skp : after (.skp 0) (((State.reset.writeV 0 0x1A).setKey 0xA true).setPc 0x204) (·.pc) = some 0x206 ∧
    after (.skp 0) ((State.reset.writeV 0 5).setPc 0x204) (·.pc) = some 0x204 := by decide

theorem test_sknp : after (.sknp 0) ((State.reset.writeV 0 5).setPc 0x204) (·.pc) = some 0x206 ∧
    after (.sknp 0) (((State.reset.writeV 0 5).setKey 5 true).setPc 0x208) (·.pc) = some 0x208 := by decide

theorem test_ld_vx_dt : after (.ldVxDT 2) (State.reset.setDt 6) (vAndVF 2) = some (6, 0) := by decide

theorem test_ld_vx_k : after (.ldVxK 1) (State.reset.setPc 0x202) (fun s => (s.kwArmed, s.kwReg, s.pc)) =
    some (true, 1, 0x202) := by decide

theorem test_ld_dt_vx : after (.ldDTVx 1) (State.reset.writeV 1 7) (·.dt) = some 7 := by decide

theorem test_ld_st_vx : after (.ldSTVx 3) (State.reset.writeV 3 2) (·.st) = some 2 := by decide

/-! ## The cycle, the scheduler and the host's operations (95 sections 2.2, 2.5, 2.6, 3) -/

/-- S6, call 3: F = 3, `6109` at CTR = 2 with DT = 5: the tick makes it 4. -/
theorem test_step_ticks : (nextOf (stepCallWith 3 2 (((State.reset.placeWord 0x6109).setDt 5).setCtr 2))).map
    (fun s => (s.dt, s.ctr, s.v[(1 : Reg)], s.pc)) = some (4, 0, 9, 0x202) := by decide

/-- `1FFF`, call 2: FAULT = (3, 0xFFF, 0x1000), CTR not counted. -/
theorem test_step_fetch_fault : (nextOf (stepCallWith 8 2 ((State.reset.setPc 0xFFF).setCtr 1))).map
    (fun s => (s.pc, s.fault, s.ctr)) =
    some (0xFFF, { cause := .fetchOutOfBounds, addr := 0xFFF, info := 0x1000 }, 1) := by decide

/-- An unknown word: one `Diag`, PC + 2, counted. -/
theorem test_step_unknown : (nextOf (stepCallWith 8 2 State.reset)).map (fun s => (s.pc, s.trace, s.ctr)) =
    some (0x202, [.diag 0x0000 0x200], 1) := by decide

/-- The host's `withFetchWord`: the very next step is the placed instruction's. -/
theorem test_with_fetch_word :
    (nextOf (step (State.reset.withFetchWord 16 0x1204))).isSome = true ∧
    (nextOf (cpuStep (State.reset.withFetchWord 16 0x1204))).map (·.pc) = some 0x204 := by decide

/-- P5, call 2: ST = 3 is decremented to 2 and sounds; call 6: ST = 1 falls to 0 and stops. -/
theorem test_tick_sound : ((State.reset.setSt 3).tick 2).trace = [.soundStart, .frame []] ∧
    (((State.reset.setSt 1).setSnd true).tick 2).trace = [.soundStop, .frame []] := by decide

/-- P6, tick 2 in small: K = 2, history [G], blank framebuffer: G at level 1. -/
theorem test_afterglow :
    ((State.reset.setHist [(drawSprite 1 3 [0x80] Framebuffer.clear).1]).composite 2).trace =
      [.frame [((1, 3), 1)]] := by decide

/-- P4, operation 4: KeyDown(7) resolves the wait for V1. -/
theorem test_key_down : (State.reset.armKeyWait 1).keyDown 7 =
    (((State.reset.armKeyWait 1).setKey 7 true).writeV 1 7).disarmKeyWait := by decide

theorem test_load_program : (loadProgram [0x12, 0x00] (State.reset.writeV 0 1)).2 =
    State.reset.setMem [(0x200, 0x12)] := by decide

theorem test_reset_stops_sound : (State.reset.setSnd true).resetOp = State.reset.emit .soundStop := by decide

/-! ## Witnesses: concrete inputs that meet the hypotheses of each statement -/

theorem witness_OpcodeMapRows : (1 : Reg).val = (0x8127 : Word).toNat / 256 % 16 ∧
    (2 : Reg).val = (0x8127 : Word).toNat / 16 % 16 ∧ (0x27 : Byte).toNat = (0x8127 : Word).toNat % 256 ∧
    (0x127 : BitVec 12).toNat = (0x8127 : Word).toNat % 4096 ∧ (7 : BitVec 4).toNat = (0x8127 : Word).toNat % 16 := by
  decide

theorem witness_UnknownWordsExactly : 0x5 = (0x5AB1 : Word).toNat / 4096 ∧ 1 = (0x5AB1 : Word).toNat % 16 ∧
    0xB1 = (0x5AB1 : Word).toNat % 256 := by decide

theorem witness_EncodeGivesBackDecodedWord :
    (decodeWord 0x82F6 = some (.shr 2) ∧ (0x82F6 : Word) &&& 0xF00F = 0x8006) ∧
    (decodeWord 0xD12F = some (.drw 1 2 15) ∧
      ((0xD12F : Word) &&& 0xF00F ≠ 0x8006 ∧ (0xD12F : Word) &&& 0xF00F ≠ 0x800E)) := by decide

theorem witness_OpcodeRowsDisjoint : (0x00E0 : Word) &&& Op.mask .cls = Op.pattern .cls := by decide

/-- `LD Vx,K` placed at the last address a word can be fetched from. -/
def atEnd : State := (State.reset.setPc 0xFFE).placeWord 0xF10A

theorem witness_StepRunsDecodedInstruction : atEnd.fault.cause = .none ∧ atEnd.kwArmed = false ∧
    atEnd.pc.toNat ≤ 0xFFE ∧ (0xF10A : Word).toNat =
      (atEnd.mem.read atEnd.pc.toNat).toNat * 256 + (atEnd.mem.read (atEnd.pc.toNat + 1)).toNat ∧
    decodeWord 0xF10A = some (.ldVxK 1) := by decide

theorem witness_StepUnknownWordEmitsDiag : State.reset.fault.cause = .none ∧ State.reset.kwArmed = false ∧
    State.reset.pc.toNat ≤ 0xFFE ∧ (0 : Word).toNat = (State.reset.mem.read State.reset.pc.toNat).toNat * 256 +
      (State.reset.mem.read (State.reset.pc.toNat + 1)).toNat ∧ decodeWord 0 = none := by decide

theorem witness_StepFetchBeyondMemoryFaults : (State.reset.setPc 0xFFF).fault.cause = .none ∧
    (State.reset.setPc 0xFFF).kwArmed = false ∧ 0xFFE < (State.reset.setPc 0xFFF).pc.toNat := by decide

/-- A faulted state: `RET` at 0x200 on the empty stack. -/
def faultedState : State := (State.reset.setPc 0x202).takeFault .emptyStack 0x200 0

theorem witness_FaultedMachineIsFrozen : faultedState.fault.cause ≠ .none := by decide

theorem witness_OnlyResetOrLoadLeavesFault : faultedState.fault.cause ≠ .none ∧
    applyOp .reset faultedState = .next faultedState.resetOp ∧ applyOp .stepCall faultedState = .next faultedState :=
  ⟨by decide, rfl, rfl⟩

/-- A state in which a key-wait is armed. -/
def waiting : State := State.reset.armKeyWait 1

theorem witness_StepSuspendedOnlyCounts : waiting.fault.cause = .none ∧ waiting.kwArmed = true := by decide

theorem witness_CountedCallTicksEveryFth : State.reset.ctr + 1 ≠ 2 ∧ (State.reset.setCtr 1).ctr + 1 = 2 := by decide

theorem witness_CompositeEmitsAfterglow : 1 ≤ 1 ∧ (State.reset.setHist [Framebuffer.clear]).hist.length ≤ 1 := by decide

theorem witness_TimersRunThroughKeyWait : waiting.fault.cause = .none ∧ waiting.kwArmed = true ∧
    waiting.ctr < Config.cadence := ⟨by decide, by decide, Config.cadence_pos⟩

/-- A waiting state one call before a tick, with a sound timer that will still be above 0 after it. -/
def beforeTick : State := (waiting.setCtr Config.cadenceLessOne).setSt 2

theorem witness_SoundChangesOnlyAtTick : ∃ t, step beforeTick = .next t ∧ t.snd ≠ beforeTick.snd ∧
    t.fault.cause = .none ∧ beforeTick.fault.cause = .none ∧ beforeTick.ctr + 1 = Config.cadence := by
  refine ⟨beforeTick.countCall Config.cadence Config.historyCap, rfl, ?_, ?_, rfl, rfl⟩
  · rw [State.countCall, if_pos (show beforeTick.ctr + 1 = Config.cadence from rfl), State.tick_eq]
    decide
  · rw [State.countCall_frame]; rfl

theorem witness_HistoryInvisibleToProgram : ∃ t, step waiting = .next t := ⟨_, rfl⟩

theorem witness_StepKeepsInvariants : Inv (State.reset.setPc 0x300) ∧ ∃ t, step (State.reset.setPc 0x300) = .next t :=
  ⟨⟨by decide, by decide, List.forall_mem_nil _, Nat.zero_le _, Config.cadence_pos, by decide, nofun, ⟨rfl, rfl⟩⟩,
    _, rfl⟩

theorem witness_OperationSequencesKeepInvariants : Inv (State.reset.setPc 0x300) := witness_StepKeepsInvariants.1

theorem witness_LoadProgramCopiesOrRejects : 0xE00 < (List.replicate 0xE01 (0xAB : Byte)).length ∧
    (List.replicate 0xE00 (0xAB : Byte)).length ≤ 0xE00 := by
  rw [List.length_replicate, List.length_replicate]
  decide

theorem witness_LoadedProgramStartsAtItsFirstWord : ((0x60 : Byte) :: (0x05 : Byte) :: []).length ≤ 0xE00 ∧
    (0x6005 : Word).toNat = (0x60 : Byte).toNat * 256 + (0x05 : Byte).toNat ∧
    decodeWord 0x6005 = some (.ldImm 0 5) := by decide

theorem witness_KeyDownSetsFlagAndResolvesWait : (waiting.fault.cause = .none ∧ waiting.kwArmed = true) ∧
    (State.reset.fault.cause = .none ∧ State.reset.kwArmed = false) := by decide

theorem witness_KeyUpClearsFlag : (State.reset.setKey 15 true).fault.cause = .none := by decide

theorem witness_KeyWaitEndsOnlyByKeyDownOrReset : waiting.kwArmed = true ∧
    applyOp (.keyDown 7) waiting = .next (waiting.keyDown 7) ∧ (waiting.keyDown 7).kwArmed = false :=
  ⟨rfl, rfl, by decide⟩

theorem witness_KeyWaitProtocol : atEnd.fault.cause = .none ∧ atEnd.kwArmed = false ∧
    atEnd.pc.toNat ≤ 0xFFE ∧ (0xF10A : Word).toNat =
      (atEnd.mem.read atEnd.pc.toNat).toNat * 256 + (atEnd.mem.read (atEnd.pc.toNat + 1)).toNat ∧
    decodeWord 0xF10A = some (.ldVxK 1) := witness_StepRunsDecodedInstruction

/-- Each kind of state is changed by some instruction the statement names for it. -/
theorem witness_WhichInstructionWritesWhat :
    after (.ldImm 3 5) State.reset (·.v[(3 : Reg)]) ≠ some 0 ∧
    after (.loadBlock 3) (State.reset.setI 1) (·.v[(3 : Reg)]) ≠ some 0 ∧
    after (.shr 3) (State.reset.writeV 3 1) (·.v[VF]) ≠ some 0 ∧
    after (.ldI 5) State.reset (·.i) ≠ some State.reset.i ∧ after (.jp 5) State.reset (·.pc) ≠ some State.reset.pc ∧
    after (.call 5) State.reset (·.stack) ≠ some [] ∧
    after (.ldB 0) ((State.reset.writeV 0 9).setI 0x300) (·.mem) ≠ some [] ∧
    after (.ldDTVx 0) (State.reset.writeV 0 9) (·.dt) ≠ some 0 ∧
    after (.ldSTVx 0) (State.reset.writeV 0 9) (·.st) ≠ some 0 ∧
    after (.drw 0 0 1) State.reset (fun s => onPixels s.fb) ≠ some [] ∧
    after (.ldVxK 0) State.reset (·.kwArmed) ≠ some false ∧
    after .ret State.reset (fun s => (s.fault, s.trace)) ≠ some (State.reset.fault, []) ∧
    after (.rnd 0 0) State.reset (·.draws) ≠ some 0 := by decide

theorem witness_VfIsWrittenAsFlagBySevenOnly :
    after (.shr 0) (two 0 1 VF 7) (fun s => (s.v[VF], s.fault, s.trace)) = some (1, State.reset.fault, []) ∧
    after (.ldImm VF 9) State.reset (·.v[VF]) ≠ some State.reset.v[VF] := by decide

/-! ### The stops of R212 -/

/-- `JP 0xFFE` standing at 0xFFE, the last address a word can be fetched from. -/
def selfJumpAtEnd : State := (State.reset.setPc 0xFFE).placeWord 0x1FFE

/-- 95, section 2.2: `1200` at 0x200 is a fixed point; `1204` there is none. -/
theorem test_self_jump : (State.reset.placeWord 0x1200).runStop = some .selfJump ∧
    selfJumpAtEnd.runStop = some .selfJump ∧ (State.reset.placeWord 0x1204).runStop = none := by decide

theorem witness_StopsStandStill_calls : faultedState.runStop = some .faulted ∧ waiting.runStop = some .keyWait ∧
    selfJumpAtEnd.runStop = some .selfJump := by decide

theorem witness_StoppedMachineBecomesPeriodic : selfJumpAtEnd.runStop = some .selfJump ∧
    RunStop.selfJump ≠ .faulted ∧ selfJumpAtEnd.ctr < Config.cadence ∧ selfJumpAtEnd.hist.length ≤ Config.historyCap ∧
    max 255 Config.historyCap * Config.cadence ≤ max 255 Config.historyCap * Config.cadence :=
  ⟨by decide, by decide, Config.cadence_pos, Nat.zero_le _, le_rfl⟩

theorem witness_StopsStandStill_host : (waiting.runStop = some .keyWait ∧
      applyOp (.keyDown 7) waiting = .next (waiting.keyDown 7) ∧ (waiting.keyDown 7).runStop ≠ some .keyWait) ∧
    (selfJumpAtEnd.runStop = some .selfJump ∧ applyOp .reset selfJumpAtEnd = .next selfJumpAtEnd.resetOp ∧
      selfJumpAtEnd.resetOp.runStop ≠ some .selfJump) :=
  ⟨⟨by decide, rfl, by decide⟩, by decide, rfl, by decide⟩

/-- The program `6005 1202`: its run ends well after one call, whatever F and K. -/
def loadThenStop : State := (loadProgram [0x60, 0x05, 0x12, 0x02] State.reset).2

theorem witness_RunHasOneEnd : RunEndsWell loadThenStop 1
    ((loadThenStop.advance.writeV 0 5).countCall Config.cadence Config.historyCap) := by
  refine ⟨.selfJump, ⟨rfl, ?_, ?_⟩, rfl⟩
  · rw [State.countCall_runStop]; decide
  · intro m hm u hu
    obtain rfl : m = 0 := by omega
    obtain rfl : loadThenStop = u := by simpa using hu
    decide

theorem witness_CanonicalMemoriesReadingAlikeAreEqual : Memory.wf [(0x300, 5), (0xFFF, 1)] := by decide

theorem witness_CallOnFullStackOverflows : (State.reset.setStack [0x202]).stack.length = 1 ∧
    State.reset.stack.length ≠ 1 := by decide

theorem witness_ReturnPopsIntoPc : (State.reset.setStack [0x206]).stack = [] ++ [0x206] ∧ State.reset.stack = [] := by
  decide

theorem witness_x_is_not_VF : (0 : Reg) ≠ VF := by decide

theorem witness_BcdStoresThreeDigits : (State.reset.setI 0xFFD).mem.wf ∧ (State.reset.setI 0xFFD).i.toNat + 2 ≤ 0xFFF := by
  decide

theorem witness_StoreBlockCopiesRegisters : (State.reset.setI 0xFF0).mem.wf ∧
    (State.reset.setI 0xFF0).i.toNat + (15 : Reg).val ≤ 0xFFF := by decide

theorem witness_LoadBlockFillsRegisters : (State.reset.setI 0xFF0).i.toNat + (15 : Reg).val ≤ 0xFFF := by decide

theorem witness_DataBeyondMemoryFaults : 0xFFF < (State.reset.setI 0xFFE).i.toNat + 2 ∧
    0xFFF < (State.reset.setI 0xFFF).i.toNat + (1 : Reg).val ∧ 0 < (2 : BitVec 4).toNat ∧
    0xFFF < (State.reset.setI 0xFFF).i.toNat + (2 : BitVec 4).toNat - 1 := by decide

/-- The byte F0 of glyph 0 at (0, 0): its first pixel is hit, and collides where the framebuffer is on; with n = 0 none
is. -/
theorem witness_DrawTogglesPixelsAndSetsCollision :
    ((0 : BitVec 4).toNat = 0 ∧ ¬spriteHits State.reset 0 1 0 0 0) ∧
    (State.reset.i.toNat + (1 : BitVec 4).toNat - 1 ≤ 0xFFF ∧ spriteHits State.reset 0 1 1 0 0) ∧
    (State.reset.setFb (drawSprite 0 0 [0x80] Framebuffer.clear).1).fb.pixel 0 0 = true := by
  refine ⟨⟨rfl, ?_⟩, ⟨by decide, ?_⟩, by decide⟩ <;> unfold spriteHits <;> decide

theorem witness_SpriteDrawnTwiceVanishes : (drawSprite 0 0 [0xFF] Framebuffer.clear).2 = false ∧
    (drawSprite 0 0 [0xFF] Framebuffer.clear).1 ≠ Framebuffer.clear := by decide

theorem witness_SkipOnKey : (0xA : Key).val = (State.reset.writeV 0 0x1A).v[(0 : Reg)].toNat % 16 := by decide

end Sys2Proof.Tests
end

section
/-! SUPPORT. The decoder read from the instruction's side (spec/30_encoding.md R61 to R65): a word matches at most one
row of the opcode map, and the number an instruction's row and operands make decodes to that instruction. -/

namespace Sys2Proof

/-! ## One row per word (R65) -/

theorem Op.mem_all (o : Op) : o ∈ Op.all := by cases o <;> decide

/-- Over the 34 rows of R64: where two patterns agree on the bits both rows fix, the rows are one. -/
theorem Op.eq_of_patterns_agree :
    ∀ o ∈ Op.all, ∀ p ∈ Op.all, o.pattern &&& p.mask = p.pattern &&& o.mask → o = p := by decide

/-- Two rows that one word matches are one row: each pattern, cut to the other's mask, is the word cut to both masks. -/
theorem Op.matchesWord_unique {o p : Op} {w : Word} (ho : o.matchesWord w = true) (hp : p.matchesWord w = true) :
    o = p := by
  simp only [Op.matchesWord, beq_iff_eq] at ho hp
  refine Op.eq_of_patterns_agree o o.mem_all p p.mem_all ?_
  rw [← ho, ← hp, BitVec.and_assoc, BitVec.and_assoc, BitVec.and_comm o.mask]

theorem classify_eq_some_iff {w : Word} {o : Op} : classify w = some o ↔ o.matchesWord w = true := by
  refine ⟨fun h => List.find?_some (p := (Op.matchesWord · w)) h, fun ho => ?_⟩
  unfold classify
  cases hf : Op.all.find? (fun p => p.matchesWord w) with
  | none => exact absurd ho (List.find?_eq_none.mp hf o o.mem_all)
  | some p => rw [Op.matchesWord_unique (List.find?_some (p := (Op.matchesWord · w)) hf) ho]

theorem decodeWord_of_matchesWord {w : Word} {o : Op} (h : o.matchesWord w = true) :
    decodeWord w = some (o.assemble w) := by
  rw [decodeWord, classify_eq_some_iff.mpr h, Option.map_some]

/-! ## The fields of a word as numbers (R61) -/

theorem fieldX_eq_iff {w : Word} {x : Reg} : fieldX w = x ↔ w.toNat / 256 % 16 = x.val := by
  simp [fieldX, Fin.ext_iff, Nat.shiftRight_eq_div_pow]

theorem fieldY_eq_iff {w : Word} {y : Reg} : fieldY w = y ↔ w.toNat / 16 % 16 = y.val := by
  simp [fieldY, Fin.ext_iff, Nat.shiftRight_eq_div_pow]

theorem fieldN_eq_iff {w : Word} {n : BitVec 4} : fieldN w = n ↔ w.toNat % 16 = n.toNat := by
  simp [fieldN, ← BitVec.toNat_inj]

theorem fieldKK_eq_iff {w : Word} {kk : Byte} : fieldKK w = kk ↔ w.toNat % 256 = kk.toNat := by
  simp [fieldKK, ← BitVec.toNat_inj]

theorem fieldAddr_eq_iff {w : Word} {addr : BitVec 12} : fieldAddr w = addr ↔ w.toNat % 4096 = addr.toNat := by
  simp [fieldAddr, ← BitVec.toNat_inj]

/-! ## The word of an instruction as a number -/

/-- The operands placed as R61 places them, above the number `p` of a row's pattern. -/
def Instr.addOperands (p : Nat) : Instr → Nat
  | .cls | .ret => p
  | .jp addr | .call addr | .ldI addr | .jpV0 addr => p + addr.toNat
  | .seImm x kk | .sneImm x kk | .ldImm x kk | .addImm x kk | .rnd x kk => p + x.val * 256 + kk.toNat
  | .seReg x y | .ldReg x y | .orReg x y | .andReg x y | .xorReg x y | .addReg x y | .subReg x y
  | .subnReg x y | .sneReg x y => p + x.val * 256 + y.val * 16
  | .drw x y n => p + x.val * 256 + y.val * 16 + n.toNat
  | .shr x | .shl x | .skp x | .sknp x | .ldVxDT x | .ldVxK x | .ldDTVx x | .ldSTVx x | .addI x | .ldF x
  | .ldB x | .storeBlock x | .loadBlock x => p + x.val * 256

/-- The word of an instruction as a number: its row's pattern and its operands. -/
def Instr.wordNat (i : Instr) : Nat := i.addOperands i.op.pattern.toNat

open Laws.EncodeMatches

theorem placeX_eq_ofNat (x : Reg) : placeX x = BitVec.ofNat 16 (x.val * 256) := by revert x; decide

/-- An instruction's operands lie outside the bits its row fixes (R62). -/
theorem operandBits_outside (i : Instr) : i.operandBits &&& i.op.mask = 0 := by
  cases i with
  | cls | ret => rfl
  | jp addr | call addr | ldI addr | jpV0 addr => exact addr_outside addr
  | seImm x kk | sneImm x kk | ldImm x kk | addImm x kk | rnd x kk => exact xk_outside x kk
  | seReg x y | ldReg x y | orReg x y | andReg x y | xorReg x y | addReg x y | subReg x y | subnReg x y
  | sneReg x y => exact xy_outside x y
  | drw x y n => exact xyn_outside x y n
  | shr x | shl x => exact x_outside_xy x
  | skp x | sknp x | ldVxDT x | ldVxK x | ldDTVx x | ldSTVx x | addI x | ldF x | ldB x | storeBlock x
  | loadBlock x => exact x_outside x

theorem encode_eq_add (i : Instr) : encode i = i.op.pattern + i.operandBits := by
  have h : i.op.pattern &&& i.operandBits = 0 := by
    rw [← pattern_masked, BitVec.and_assoc, BitVec.and_comm i.op.mask, operandBits_outside]
    exact BitVec.and_zero
  rw [encode, BitVec.add_eq_or_of_and_eq_zero _ _ h]

/-- A field of k bits beside a number that leaves the low k bits free. -/
theorem ofNat_or_setWidth {k : Nat} (a : Nat) (b : BitVec k) :
    BitVec.ofNat 16 (2 ^ k * a) ||| b.setWidth 16 = BitVec.ofNat 16 (2 ^ k * a + b.toNat) := by
  rw [Nat.two_pow_add_eq_or_of_lt b.isLt, BitVec.ofNat_or, BitVec.ofNat_toNat]

theorem placeXK_eq_ofNat (x : Reg) (kk : Byte) :
    placeX x ||| kk.setWidth 16 = BitVec.ofNat 16 (x.val * 256 + kk.toNat) := by
  rw [placeX_eq_ofNat, Nat.mul_comm]
  exact ofNat_or_setWidth (k := 8) x.val kk

theorem placeXY_eq_ofNat (x y : Reg) : placeX x ||| placeY y = BitVec.ofNat 16 (x.val * 256 + y.val * 16) := by
  revert x y; decide

theorem placeXYN_eq_ofNat (x y : Reg) (n : BitVec 4) :
    placeX x ||| placeY y ||| n.setWidth 16 = BitVec.ofNat 16 (x.val * 256 + y.val * 16 + n.toNat) := by
  rw [placeXY_eq_ofNat, show x.val * 256 + y.val * 16 = 2 ^ 4 * (x.val * 16 + y.val) by omega]
  exact ofNat_or_setWidth _ n

/-- The numbers of R61's placement are the encoder's operand bits, above any pattern. -/
theorem ofNat_addOperands (p : Nat) (i : Instr) :
    BitVec.ofNat 16 (i.addOperands p) = BitVec.ofNat 16 p + i.operandBits := by
  cases i with
  | cls | ret => exact (BitVec.add_zero _).symm
  | jp addr | call addr | ldI addr | jpV0 addr =>
    simp [Instr.addOperands, Instr.operandBits, BitVec.ofNat_add]
  | seImm x kk | sneImm x kk | ldImm x kk | addImm x kk | rnd x kk =>
    simp only [Instr.addOperands, Instr.operandBits, placeXK_eq_ofNat, ← BitVec.ofNat_add, Nat.add_assoc]
  | seReg x y | ldReg x y | orReg x y | andReg x y | xorReg x y | addReg x y | subReg x y | subnReg x y
  | sneReg x y =>
    simp only [Instr.addOperands, Instr.operandBits, placeXY_eq_ofNat, ← BitVec.ofNat_add, Nat.add_assoc]
  | drw x y n =>
    simp only [Instr.addOperands, Instr.operandBits, placeXYN_eq_ofNat, ← BitVec.ofNat_add, Nat.add_assoc]
  | shr x | shl x | skp x | sknp x | ldVxDT x | ldVxK x | ldDTVx x | ldSTVx x | addI x | ldF x | ldB x
  | storeBlock x | loadBlock x =>
    simp only [Instr.addOperands, Instr.operandBits, placeX_eq_ofNat, BitVec.ofNat_add]

theorem encode_eq_ofNat_wordNat (i : Instr) : encode i = BitVec.ofNat 16 i.wordNat := by
  rw [encode_eq_add, Instr.wordNat, ofNat_addOperands, BitVec.ofNat_toNat, BitVec.setWidth_eq]

/-- The fields cut from an instruction's word are its operands again (R61, R62). -/
theorem assemble_ofNat_wordNat (i : Instr) : i.op.assemble (BitVec.ofNat 16 i.wordNat) = i := by
  cases i with
  | cls | ret => rfl
  | jp addr | call addr | ldI addr | jpV0 addr =>
    simp [Instr.op, Op.assemble, Instr.wordNat, Instr.addOperands, Op.pattern, fieldAddr_eq_iff]
    omega
  | seImm x kk | sneImm x kk | ldImm x kk | addImm x kk | rnd x kk =>
    simp [Instr.op, Op.assemble, Instr.wordNat, Instr.addOperands, Op.pattern, fieldX_eq_iff, fieldKK_eq_iff]
    omega
  | seReg x y | ldReg x y | orReg x y | andReg x y | xorReg x y | addReg x y | subReg x y | subnReg x y
  | sneReg x y =>
    simp [Instr.op, Op.assemble, Instr.wordNat, Instr.addOperands, Op.pattern, fieldX_eq_iff, fieldY_eq_iff]
    omega
  | drw x y n =>
    simp [Instr.op, Op.assemble, Instr.wordNat, Instr.addOperands, Op.pattern, fieldX_eq_iff, fieldY_eq_iff,
      fieldN_eq_iff]
    omega
  | shr x | shl x | skp x | sknp x | ldVxDT x | ldVxK x | ldDTVx x | ldSTVx x | addI x | ldF x | ldB x
  | storeBlock x | loadBlock x =>
    simp [Instr.op, Op.assemble, Instr.wordNat, Instr.addOperands, Op.pattern, fieldX_eq_iff]
    omega

theorem decodeWord_encode (i : Instr) : decodeWord (encode i) = some i := by
  rw [decodeWord_of_matchesWord (Laws.EncodeMatches.all i), encode_eq_ofNat_wordNat, assemble_ofNat_wordNat]

theorem decodeWord_wordNat (i : Instr) : decodeWord (BitVec.ofNat 16 i.wordNat) = some i :=
  encode_eq_ofNat_wordNat i ▸ decodeWord_encode i

end Sys2Proof
end

section
/-! SUPPORT. Jumps and skips (spec/41_control_flow.md R91, R93 to R97): what each leaves in PC, and that nothing else
changes. -/

namespace Sys2Proof.Machine

/-! ## Jumps -/

/-- A jump to the number `n` (R98): only a target above 0xFFE cannot be fetched from next (R82). -/
theorem jumpTo_sets_pc {w : Word} {n : Nat} (hw : w.toNat = n) (s : State) :
    ∃ t, jumpTo w s = .next t ∧ t.pc.toNat = n ∧ (t.fetch = none ↔ 0xFFE < n) ∧
      t = { s with pc := t.pc } ∧ KeepsMemory s t :=
  ⟨s.setPc w, rfl, hw, hw ▸ State.fetch_eq_none, rfl, fun _ => rfl⟩

theorem addrWord_toNat (addr : BitVec 12) : (addrWord addr).toNat = addr.toNat :=
  BitVec.toNat_setWidth_of_le (by decide)

theorem byteWord_toNat (b : Byte) : (byteWord b).toNat = b.toNat :=
  BitVec.toNat_setWidth_of_le (by decide)

/-- The sum of R97 is not reduced: 0xFFF + 0xFF fits 16 bits. -/
theorem addrWord_add_byteWord_toNat (addr : BitVec 12) (b : Byte) :
    (addrWord addr + byteWord b).toNat = addr.toNat + b.toNat := by
  rw [BitVec.toNat_add, addrWord_toNat, byteWord_toNat]
  omega

/-! ## Skips -/

theorem skipIf_eq (b : Bool) (s : State) :
    skipIf b s = .next { s with pc := if b then s.pc + 2 else s.pc } := by
  cases b <;> rfl

/-- A skip on equality, read on the bytes as numbers (R93, R95). -/
theorem skipIf_beq (a b : Byte) (s : State) :
    skipIf (a == b) s = .next { s with pc := if a.toNat = b.toNat then s.pc + 2 else s.pc } := by
  simp only [skipIf_eq, beq_iff_eq, BitVec.toNat_inj]

/-- A skip on difference, read on the bytes as numbers (R94, R96). -/
theorem skipIf_bne (a b : Byte) (s : State) :
    skipIf (a != b) s = .next { s with pc := if a.toNat = b.toNat then s.pc else s.pc + 2 } := by
  simp only [skipIf_eq, bne_iff_ne, ne_eq, ite_not, BitVec.toNat_inj]

end Sys2Proof.Machine
end

section
/-! The statements about control flow (spec/41_control_flow.md). -/

namespace Sys2Proof.Machine

/-- Settles O33: the meaning is a jump to the 12-bit address. -/
theorem jumpSetsPc : Obligations.JumpSetsPc := fun addr s =>
  ⟨decodeWord_wordNat (.jp addr), jumpTo_sets_pc (addrWord_toNat addr) s⟩

/-- Settles O37: the meanings are skips on the comparison of Vx with kk. -/
theorem skipOnImmediate : Obligations.SkipOnImmediate := fun x kk s =>
  ⟨decodeWord_wordNat (.seImm x kk), decodeWord_wordNat (.sneImm x kk),
    skipIf_beq (s.readV x) kk s, skipIf_bne (s.readV x) kk s⟩

/-- Settles O38: the meanings are skips on the comparison of Vx with Vy, which for x = y is decided. -/
theorem skipOnRegisters : Obligations.SkipOnRegisters := fun x y s =>
  ⟨decodeWord_wordNat (.seReg x y), decodeWord_wordNat (.sneReg x y),
    skipIf_beq (s.readV x) (s.readV y) s, skipIf_bne (s.readV x) (s.readV y) s,
    (skipIf_beq (s.readV x) (s.readV x) s).trans (by rw [if_pos rfl]),
    (skipIf_bne (s.readV x) (s.readV x) s).trans (by rw [if_pos rfl])⟩

/-- Settles O39: the meaning is a jump to the sum of the address and V0. -/
theorem jumpV0AddsOffset : Obligations.JumpV0AddsOffset := fun addr s =>
  ⟨decodeWord_wordNat (.jpV0 addr), jumpTo_sets_pc (addrWord_add_byteWord_toNat addr (s.readV 0)) s⟩

end Sys2Proof.Machine
end

section
/-! SUPPORT. The instructions whose meaning is one write of a V register: what the write leaves in that register, and
that nothing else changes (spec/42_alu.md R100 to R105). -/

namespace Sys2Proof.Machine

theorem State.writeV_getElem_self (s : State) (x : Reg) (b : Byte) : (s.writeV x b).v[x] = b :=
  (s.writeV_readV x x b).trans (if_pos rfl)

/-- The frame of a register write; the flag is no exception, it changes only as the register x. -/
theorem State.writeV_onlyVAt (s : State) (x : Reg) (b : Byte) : OnlyVAt x s (s.writeV x b) :=
  ⟨⟨rfl, fun _ => rfl⟩, fun r hr => (s.writeV_readV x r b).trans (if_neg hr)⟩

theorem next_writeV_sets_only_Vx (s : State) (x : Reg) (b : Byte) :
    ∃ t, (.next (s.writeV x b) : StepResult) = .next t ∧ t.v[x] = b ∧ OnlyVAt x s t :=
  ⟨_, rfl, s.writeV_getElem_self x b, s.writeV_onlyVAt x b⟩

end Sys2Proof.Machine
end

section
/-! The statements about loads, the immediate add and bitwise logic (spec/42_alu.md). -/

namespace Sys2Proof.Machine

/-- Settles O40: each meaning writes Vx once, for the add with a sum of bytes, which is modulo 256. -/
theorem loadsAndImmediateAdd : Obligations.LoadsAndImmediateAdd := fun x y kk s =>
  ⟨decodeWord_wordNat (.ldImm x kk), decodeWord_wordNat (.addImm x kk), decodeWord_wordNat (.ldReg x y),
    next_writeV_sets_only_Vx s x kk,
    ⟨s.writeV x (s.v[x] + kk), rfl, by rw [State.writeV_getElem_self, BitVec.toNat_add], s.writeV_onlyVAt x _⟩,
    next_writeV_sets_only_Vx s x s.v[y]⟩

/-- Settles O41: each meaning writes to Vx the operation on whole bytes, which acts bit by bit. -/
theorem bitwiseLogic : Obligations.BitwiseLogic := fun x y s =>
  ⟨decodeWord_wordNat (.orReg x y), decodeWord_wordNat (.andReg x y), decodeWord_wordNat (.xorReg x y),
    ⟨s.writeV x (s.v[x] ||| s.v[y]), rfl, fun _ => by rw [State.writeV_getElem_self, BitVec.getLsbD_or],
      s.writeV_onlyVAt x _⟩,
    ⟨s.writeV x (s.v[x] &&& s.v[y]), rfl, fun _ => by rw [State.writeV_getElem_self, BitVec.getLsbD_and],
      s.writeV_onlyVAt x _⟩,
    ⟨s.writeV x (s.v[x] ^^^ s.v[y]), rfl, fun _ => by rw [State.writeV_getElem_self, BitVec.getLsbD_xor],
      s.writeV_onlyVAt x _⟩⟩

end Sys2Proof.Machine
end

section
/-! SUPPORT. The instructions whose meaning is one write of I: what the write leaves in I, and that nothing else changes
(spec/43_index_memory.md R120, R122). -/

namespace Sys2Proof.Machine

/-- I holds the number `n` after the write, and every other part of the state is as it was. -/
theorem setI_sets_only_i {w : Word} {n : Nat} (hw : w.toNat = n) (s : State) :
    ∃ t, (.next (s.setI w) : StepResult) = .next t ∧ t.i.toNat = n ∧ t = { s with i := t.i } ∧ KeepsMemory s t :=
  ⟨s.setI w, rfl, hw, rfl, fun _ => rfl⟩

/-- The product of R122 is not reduced: five times 0xFF fits 16 bits. -/
theorem glyphAddr_toNat (b : Byte) : (glyphAddr b).toNat = b.toNat * 5 := by
  rw [glyphAddr, BitVec.toNat_ofNat]
  omega

end Sys2Proof.Machine
end

section
/-! The statement about LD I,addr and LD F,Vx (spec/43_index_memory.md). -/

namespace Sys2Proof.Machine

/-- Settles O46: the meanings write to I the 12-bit address and the whole register value times five. -/
theorem indexLoads : Obligations.IndexLoads := fun addr x s =>
  ⟨decodeWord_wordNat (.ldI addr), decodeWord_wordNat (.ldF x),
    setI_sets_only_i (addrWord_toNat addr) s, setI_sets_only_i (glyphAddr_toNat (s.readV x)) s⟩

end Sys2Proof.Machine
end

section
/-! The statement about CLS (spec/44_display.md section 1, R130, and section 2, R132). -/

namespace Sys2Proof.Machine

/-- Settles O52: the meaning replaces the framebuffer by the clear one, whose pixels are all off, and writes nothing
else. -/
theorem clearScreenTurnsPixelsOff : Obligations.ClearScreenTurnsPixelsOff :=
  ⟨decodeWord_wordNat .cls, fun s =>
    ⟨s.setFb Framebuffer.clear, rfl, Framebuffer.pixel_clear, rfl, fun _ => rfl⟩⟩

end Sys2Proof.Machine
end

section
/-! SUPPORT. The access matrix of spec/10_state.md section 10 (R30), with FAULT and the trace by spec/60_exceptions.md R162:
one row per instruction, of which only the columns the instruction writes have anything to say. -/

namespace Sys2Proof.Machine

/-! ## The V registers a write touches -/

theorem State.writeV_changes {s : State} {x r : Reg} {b : Byte} (h : (s.writeV x b).v[r] ≠ s.v[r]) : r = x :=
  not_imp_comm.mp ((s.writeV_onlyVAt x b).2 r) h

theorem State.writeResultFlag_changes {s : State} {order : VfWriteOrder} {x r : Reg} {b : Byte} {f : Bool}
    (h : (s.writeResultFlag order x b f).v[r] ≠ s.v[r]) : r = x ∨ r = VF := by
  by_contra hr
  obtain ⟨hx, hf⟩ := not_or.mp hr
  refine h ((s.writeResultFlag_readV order x r b f).trans ?_)
  cases order <;> simp [hx, hf, State.readV]

theorem loadBlockRegs_changes {s : State} {base : Nat} {x r : Reg} (h : (s.loadBlockRegs base x).v[r] ≠ s.v[r]) :
    r ≤ x :=
  not_imp_comm.mp (fun hr => (loadBlockRegs_readV s base x r).trans (if_neg hr)) h

/-! ## The matrix -/

/-- The column V of the matrix: the instructions that can change the register r. -/
def WritesRegister (i : Instr) (r : Reg) : Prop :=
  (∃ kk, i = .ldImm r kk ∨ i = .addImm r kk ∨ i = .rnd r kk) ∨
  (∃ y, i = .ldReg r y ∨ i = .orReg r y ∨ i = .andReg r y ∨ i = .xorReg r y ∨ i = .addReg r y ∨ i = .subReg r y ∨
    i = .subnReg r y) ∨
  i = .shr r ∨ i = .shl r ∨ i = .ldVxDT r ∨ (∃ x, i = .loadBlock x ∧ r ≤ x) ∨
  (r = VF ∧ ∃ x, i = .shr x ∨ i = .shl x ∨ i = .addI x ∨
    (∃ y, i = .addReg x y ∨ i = .subReg x y ∨ i = .subnReg x y) ∨ ∃ y n, i = .drw x y n)

/-- The row of instruction i in the matrix, for a state s and the state t it leaves: a part of the state that differs
names i among its writers. A column left out of a row is one that the operations of i do not touch. -/
structure AccessRow (i : Instr) (s t : State) : Prop where
  v : ∀ r : Reg, t.v[r] ≠ s.v[r] → WritesRegister i r := by exact fun _ => absurd rfl
  index : t.i ≠ s.i → ∃ x, (∃ a, i = .ldI a) ∨ i = .addI x ∨ i = .ldF x := by exact absurd rfl
  pc : t.pc ≠ s.pc → i = .ret ∨ (∃ a, i = .jp a ∨ i = .call a ∨ i = .jpV0 a) ∨
    (∃ x kk, i = .seImm x kk ∨ i = .sneImm x kk) ∨ (∃ x y, i = .seReg x y ∨ i = .sneReg x y) ∨
    ∃ x, i = .skp x ∨ i = .sknp x := by exact absurd rfl
  stack : t.stack ≠ s.stack → i = .ret ∨ ∃ a, i = .call a := by exact absurd rfl
  mem : t.mem ≠ s.mem → ∃ x, i = .ldB x ∨ i = .storeBlock x := by exact absurd rfl
  dt : t.dt ≠ s.dt → ∃ x, i = .ldDTVx x := by exact absurd rfl
  st : t.st ≠ s.st → ∃ x, i = .ldSTVx x := by exact absurd rfl
  fb : t.fb ≠ s.fb → i = .cls ∨ ∃ x y n, i = .drw x y n := by exact absurd rfl
  keyWait : t.kwArmed ≠ s.kwArmed ∨ t.kwReg ≠ s.kwReg → ∃ x, i = .ldVxK x := by
    exact fun hne => hne.elim (absurd rfl) (absurd rfl)
  fault : t.fault ≠ s.fault ∨ t.trace ≠ s.trace →
    i = .ret ∨ (∃ x, i = .ldB x ∨ i = .storeBlock x ∨ i = .loadBlock x) ∨ ∃ x y n, i = .drw x y n := by
    exact fun hne => hne.elim (absurd rfl) (absurd rfl)
  draws : t.draws ≠ s.draws → ∃ x kk, i = .rnd x kk := by exact absurd rfl
  hist : t.hist = s.hist := by rfl
  keys : t.keys = s.keys := by rfl
  ctr : t.ctr = s.ctr := by rfl
  snd : t.snd = s.snd := by rfl

/-! ## The rows, by the operation an instruction consists of -/

theorem AccessRow.of_writeV {i : Instr} {s : State} {x : Reg} {b : Byte} (hx : WritesRegister i x) :
    AccessRow i s (s.writeV x b) :=
  { v := fun _ hne => State.writeV_changes hne ▸ hx }

/-- R112: the flag of a flag-writing ALU instruction goes to VF. -/
theorem AccessRow.of_writeResultFlag {i : Instr} {s : State} {x : Reg} {b : Byte} {f : Bool}
    (hx : WritesRegister i x) (hf : WritesRegister i VF) :
    AccessRow i s (s.writeResultFlag Config.vfWriteOrder x b f) :=
  { v := fun _ hne => (State.writeResultFlag_changes hne).elim (· ▸ hx) (· ▸ hf) }

theorem AccessRow.of_skipIf {i : Instr} {b : Bool} {s t : State} (h : skipIf b s = .next t)
    (hi : (∃ x kk, i = .seImm x kk ∨ i = .sneImm x kk) ∨ (∃ x y, i = .seReg x y ∨ i = .sneReg x y) ∨
      ∃ x, i = .skp x ∨ i = .sknp x) : AccessRow i s t := by
  obtain ⟨-, rfl⟩ | ⟨-, rfl⟩ := skipIf_next h
  · exact { pc := fun _ => .inr (.inr hi) }
  · exact {}

/-- R45: a guarded access is its effect or the entry into a fault, which touches FAULT and the trace alone. -/
theorem AccessRow.of_withinMemory {i : Instr} {base count : Nat} {s t u : State}
    (h : withinMemory base count s (.next u) = .next t)
    (hi : (∃ x, i = .ldB x ∨ i = .storeBlock x ∨ i = .loadBlock x) ∨ ∃ x y n, i = .drw x y n)
    (hu : AccessRow i s u) : AccessRow i s t := by
  obtain ⟨-, -, e⟩ | ⟨-, e⟩ := withinMemory_eq base count s (.next u)
  · obtain rfl := Host.Outcome.next.inj (e.symm.trans h)
    exact { fault := fun _ => .inr hi }
  · exact Host.Outcome.next.inj (e.symm.trans h) ▸ hu

/-- Every instruction keeps to its row. -/
theorem exec_accessRow {i : Instr} {s t : State} (h : exec i s = .next t) : AccessRow i s t := by
  cases i with
  | ldImm | addImm | ldReg | orReg | andReg | xorReg | ldVxDT =>
    obtain rfl := Host.Outcome.next.inj h
    exact .of_writeV (by simp [WritesRegister])
  | addReg | subReg | shr | subnReg | shl =>
    obtain rfl := Host.Outcome.next.inj h
    exact .of_writeResultFlag (by simp [WritesRegister]) (by simp [WritesRegister])
  | rnd x kk =>
    obtain rfl := Host.Outcome.next.inj h
    exact { v := fun _ hne => State.writeV_changes hne ▸ .inl ⟨kk, .inr (.inr rfl)⟩
            draws := fun _ => ⟨x, kk, rfl⟩ }
  | seImm | sneImm | seReg | sneReg | skp | sknp => exact .of_skipIf h (by simp)
  | jp | jpV0 =>
    obtain rfl := jumpTo_next h
    exact { pc := fun _ => by simp }
  | call addr =>
    obtain ⟨hfull, -⟩ | ⟨-, rfl⟩ := pushAndJump_next (limit := Config.stackLimit) (w := addrWord addr) h
    · cases hfull
    · exact { pc := fun _ => by simp, stack := fun _ => by simp }
  | ret =>
    obtain ⟨-, rfl⟩ | ⟨_, _, -, rfl⟩ := popAndJump_next h
    · exact { fault := fun _ => .inl rfl }
    · exact { pc := fun _ => .inl rfl, stack := fun _ => .inl rfl }
  | ldI | ldF =>
    obtain rfl := Host.Outcome.next.inj h
    exact { index := fun _ => by simp }
  | addI x =>
    obtain rfl := Host.Outcome.next.inj h
    exact { v := fun _ hne => State.writeV_changes (s := s) hne ▸ by simp [WritesRegister]
            index := fun _ => ⟨x, .inr (.inl rfl)⟩ }
  | ldDTVx x =>
    obtain rfl := Host.Outcome.next.inj h
    exact { dt := fun _ => ⟨x, rfl⟩ }
  | ldSTVx x =>
    obtain rfl := Host.Outcome.next.inj h
    exact { st := fun _ => ⟨x, rfl⟩ }
  | ldVxK x =>
    obtain rfl := Host.Outcome.next.inj h
    exact { keyWait := fun _ => ⟨x, rfl⟩ }
  | cls =>
    obtain rfl := Host.Outcome.next.inj h
    exact { fb := fun _ => .inl rfl }
  | drw x y n =>
    exact .of_withinMemory h (by simp)
      { v := fun _ hne => State.writeV_changes (s := s) hne ▸ by simp [WritesRegister]
        fb := fun _ => .inr ⟨x, y, n, rfl⟩ }
  | ldB | storeBlock => exact .of_withinMemory h (by simp) { mem := fun _ => by simp }
  | loadBlock x =>
    refine .of_withinMemory h (by simp) ?_
    rw [loadBlockRegs_frame]
    exact { v := fun _ hne => by simp [WritesRegister, loadBlockRegs_changes hne] }

end Sys2Proof.Machine
end

section
/-! The statement about the access matrix (spec/10_state.md section 10, R30, and spec/60_exceptions.md section 1, R162). -/

namespace Sys2Proof.Machine

/-- Settles O30: every instruction keeps to its row of the matrix, and the statement reads the rows column by column. -/
theorem whichInstructionWritesWhat : Obligations.WhichInstructionWritesWhat := fun _ _ _ h =>
  have row := exec_accessRow h
  ⟨row.v, row.index, row.pc, row.stack, row.mem, row.dt, row.st, row.fb, row.keyWait, row.fault, row.draws, row.hist,
    row.keys, row.ctr, row.snd⟩

end Sys2Proof.Machine
end

section
/-! SUPPORT. Counted StepCalls in a row (spec/40_step_cycle.md R87, spec/60_exceptions.md R175 to R177): what they make
of CTR, the timers, SND and HIST, and how the timers and the sound run down. -/

namespace Sys2Proof.Machine

/-! ## One counted call -/

/-- The F-th call ticks (R87, R175). -/
theorem State.countCall_of_tick {F : Nat} {s : State} (K : Nat) (h : s.ctr + 1 = F) :
    s.countCall F K =
      { s with
        ctr := 0, dt := decTimer s.dt, st := decTimer s.st, snd := decide (decTimer s.st ≠ 0)
        hist := remember K s.hist s.fb, trace := (s.countCall F K).trace } := by
  rw [State.countCall, if_pos h, State.tick_eq]
  rfl

/-- Any other call raises CTR (R87). -/
theorem State.countCall_of_no_tick {F : Nat} {s : State} (K : Nat) (h : s.ctr + 1 ≠ F) :
    s.countCall F K = s.setCtr (s.ctr + 1) :=
  if_neg h

/-! ## The history as the last K snapshots -/

/-- R137: appending and evicting keeps the last K snapshots. -/
theorem remember_eq_rtake {K : Nat} {hist : List Framebuffer} (fb : Framebuffer) (h : hist.length ≤ K) :
    remember K hist fb = (hist ++ [fb]).rtake K := by
  rw [remember, List.rtake, ← List.drop_one, List.length_append, List.length_singleton]
  split
  · rw [show hist.length + 1 - K = 1 by omega]
  · rw [show hist.length + 1 - K = 0 by omega, List.drop_zero]

/-- What was evicted earlier does not come back: only the last K of all snapshots matter. -/
theorem rtake_rtake_concat {α : Type} (K : Nat) (l : List α) (a : α) :
    (l.rtake K ++ [a]).rtake K = (l ++ [a]).rtake K := by
  cases K with
  | zero => simp
  | succ k => simp [List.rtake_eq_reverse_take_reverse, List.take_take]

/-- K copies at the end are all that is kept. -/
theorem rtake_append_replicate {α : Type} {K n : Nat} (l : List α) (a : α) (h : K ≤ n) :
    (l ++ List.replicate n a).rtake K = List.replicate K a := by
  rw [List.rtake, List.length_append, List.length_replicate, List.drop_append, List.drop_eq_nil_of_le (by omega),
    List.nil_append, List.drop_replicate]
  congr 1
  omega

/-! ## A row of counted calls -/

/-- `t` is `s` but for what the counting of calls writes (R87). -/
def OnlyCounting (s t : State) : Prop :=
  t = { s with dt := t.dt, st := t.st, snd := t.snd, hist := t.hist, ctr := t.ctr, trace := t.trace }

theorem OnlyCounting.trans {s t u : State} (hst : OnlyCounting s t) (htu : OnlyCounting t u) : OnlyCounting s u :=
  Eq.trans htu (by rw [hst])

theorem State.countCall_onlyCounting (F K : Nat) (s : State) : OnlyCounting s (s.countCall F K) :=
  State.countCall_frame F K s

theorem State.countCall_iterate_onlyCounting (F K n : Nat) (s : State) :
    OnlyCounting s ((State.countCall F K)^[n] s) := by
  induction n with
  | zero => rfl
  | succ n ih =>
    rw [Function.iterate_succ_apply']
    exact ih.trans (State.countCall_onlyCounting F K _)

/-- `t` is `s` after `n` counted calls, of which `ticks` ticked. -/
structure CountedCalls (F K n ticks : Nat) (s t : State) : Prop where
  calls   : s.ctr + n = ticks * F + t.ctr
  counter : t.ctr < F
  dt      : t.dt.toNat = s.dt.toNat - ticks
  st      : t.st.toNat = s.st.toNat - ticks
  snd     : 0 < ticks → t.snd = decide (t.st ≠ 0)
  hist    : t.hist = (s.hist ++ List.replicate ticks s.fb).rtake K
  frame   : OnlyCounting s t

theorem CountedCalls.zero {F K : Nat} {s : State} (hc : s.ctr < F) (hh : s.hist.length ≤ K) :
    CountedCalls F K 0 0 s s where
  calls   := by omega
  counter := hc
  dt      := rfl
  st      := rfl
  snd     := fun h => absurd h (lt_irrefl 0)
  hist    := by simp [List.rtake, Nat.sub_eq_zero_of_le hh]
  frame   := rfl

theorem CountedCalls.tick {F K n ticks : Nat} {s t : State} (h : CountedCalls F K n ticks s t)
    (ht : t.ctr + 1 = F) : CountedCalls F K (n + 1) (ticks + 1) s (t.countCall F K) := by
  have hfb : t.fb = s.fb := by rw [h.frame]
  have hlen : t.hist.length ≤ K := by rw [h.hist, List.rtake, List.length_drop]; omega
  have hframe := h.frame.trans (State.countCall_onlyCounting F K t)
  rw [State.countCall_of_tick K ht] at hframe ⊢
  exact {
    calls   := by have := h.calls; rw [Nat.succ_mul]; show _ = _ + 0; omega
    counter := by show 0 < F; omega
    dt      := by rw [decTimer_toNat, h.dt]; omega
    st      := by rw [decTimer_toNat, h.st]; omega
    snd     := fun _ => rfl
    hist    := by
      show remember K t.hist t.fb = _
      rw [remember_eq_rtake _ hlen, h.hist, hfb, rtake_rtake_concat, List.append_assoc, List.replicate_succ']
    frame   := hframe }

theorem CountedCalls.no_tick {F K n ticks : Nat} {s t : State} (h : CountedCalls F K n ticks s t)
    (ht : t.ctr + 1 ≠ F) : CountedCalls F K (n + 1) ticks s (t.countCall F K) := by
  have hcalls := h.calls
  have hcounter := h.counter
  have hframe := h.frame.trans (State.countCall_onlyCounting F K t)
  rw [State.countCall_of_no_tick K ht] at hframe ⊢
  exact { h with
    calls   := by rw [State.setCtr_ctr]; omega
    counter := by rw [State.setCtr_ctr]; omega
    frame   := hframe }

/-- Counted calls run the timers down, one tick every F calls (R87, R175, R177). -/
theorem countedCalls_iterate {F K : Nat} {s : State} (n : Nat) (hc : s.ctr < F) (hh : s.hist.length ≤ K) :
    ∃ ticks, CountedCalls F K n ticks s ((State.countCall F K)^[n] s) := by
  induction n with
  | zero => exact ⟨0, .zero hc hh⟩
  | succ n ih =>
    obtain ⟨ticks, h⟩ := ih
    rw [Function.iterate_succ_apply']
    by_cases ht : ((State.countCall F K)^[n] s).ctr + 1 = F
    · exact ⟨ticks + 1, h.tick ht⟩
    · exact ⟨ticks, h.no_tick ht⟩

/-! ## Run down -/

/-- `s` with timers and sound off, K copies of the framebuffer in HIST and `n` more calls counted modulo F. -/
def State.runDown (s : State) (F K n : Nat) : State :=
  { s with dt := 0, st := 0, snd := false, hist := List.replicate K s.fb, ctr := (s.ctr + n) % F }

theorem State.runDown_add_cadence (s : State) (F K n : Nat) : s.runDown F K (n + F) = s.runDown F K n := by
  simp only [State.runDown, ← Nat.add_assoc, Nat.add_mod_right]

/-- 255 ticks bring any timer to 0 (R177). -/
theorem timer_eq_zero {a b : Byte} {ticks : Nat} (h : b.toNat = a.toNat - ticks) (hticks : 255 ≤ ticks) : b = 0 := by
  have := a.isLt
  exact BitVec.eq_of_toNat_eq (by show b.toNat = 0; omega)

/-- After max(255, K) ticks no timer is above 0 and every snapshot in HIST is the present framebuffer. -/
theorem CountedCalls.eq_runDown {F K n ticks : Nat} {s t : State} (h : CountedCalls F K n ticks s t)
    (hn : max 255 K * F ≤ n) : t = { s.runDown F K n with trace := t.trace } := by
  have hticks : max 255 K ≤ ticks := by
    have hcalls := h.calls
    have hcounter := h.counter
    have : max 255 K * F < (ticks + 1) * F := by rw [Nat.succ_mul]; omega
    exact Nat.le_of_lt_succ (Nat.lt_of_mul_lt_mul_right this)
  have hdt : t.dt = 0 := timer_eq_zero h.dt (by omega)
  have hst : t.st = 0 := timer_eq_zero h.st (by omega)
  have hsnd : t.snd = false := by rw [h.snd (by omega), hst]; rfl
  have hhist : t.hist = List.replicate K s.fb := by rw [h.hist, rtake_append_replicate _ _ (by omega)]
  have hctr : t.ctr = (s.ctr + n) % F := by
    rw [h.calls, Nat.mul_add_mod_self_right, Nat.mod_eq_of_lt h.counter]
  have hframe : t = _ := h.frame
  rwa [hdt, hst, hsnd, hhist, hctr] at hframe

end Sys2Proof.Machine
end

section
/-! SUPPORT. Any number of StepCalls at a stop (spec/70_reset_and_hazards.md R212), the host's operations there, a
second Reset (R204), and the end of a run. -/

namespace Sys2Proof.Machine

/-! ## StepCalls at a stop -/

/-- R164: a faulted machine stays whole. -/
theorem runCalls_faulted {s : State} (n : Nat) (h : s.runStop = some .faulted) : runCalls n s = .next s := by
  induction n with
  | zero => rfl
  | succ n ih => rw [runCalls_succ n (step_at_stop h), ih]

/-- R212 (b, c): at the two other stops a StepCall is only counted. -/
theorem step_counts_at_stop {s : State} {c : RunStop} (h : s.runStop = some c) (hc : c ≠ .faulted) :
    step s = .next (s.countCall Config.cadence Config.historyCap) := by
  cases c with
  | faulted => exact absurd rfl hc
  | keyWait => exact step_at_stop h
  | selfJump => exact step_at_stop h

theorem runCalls_counts_at_stop {s : State} {c : RunStop} (n : Nat) (h : s.runStop = some c) (hc : c ≠ .faulted) :
    runCalls n s = .next ((State.countCall Config.cadence Config.historyCap)^[n] s) := by
  induction n generalizing s with
  | zero => rfl
  | succ n ih =>
    rw [runCalls_succ n (step_counts_at_stop h hc), ih ((State.countCall_runStop _ _ s).trans h),
      Function.iterate_succ_apply]

theorem State.countCall_iterate_runStop (F K n : Nat) (s : State) :
    ((State.countCall F K)^[n] s).runStop = s.runStop := by
  induction n with
  | zero => rfl
  | succ n ih => rw [Function.iterate_succ_apply', State.countCall_runStop, ih]

/-! ## The host's operations at a stop -/

/-- A StepCall leaves no stop (R212). -/
theorem step_keeps_runStop {s t : State} {c : RunStop} (h : s.runStop = some c) (ht : step s = .next t) :
    t.runStop = some c := by
  rw [step_at_stop h] at ht
  obtain rfl := Host.Outcome.next.inj ht
  cases c with
  | faulted => exact h
  | keyWait => exact (State.countCall_runStop _ _ s).trans h
  | selfJump => exact (State.countCall_runStop _ _ s).trans h

/-- A KeyUp leaves no stop (R172). -/
theorem State.keyUp_runStop (s : State) (k : Key) : (s.keyUp k).runStop = s.runStop := by
  unfold State.keyUp
  split
  · rfl
  · exact State.runStop_congr rfl rfl rfl rfl

/-- A KeyDown leaves no stop but a key-wait: with none armed it sets a key flag only (R171). -/
theorem State.keyDown_runStop {s : State} {c : RunStop} (k : Key) (h : s.runStop = some c) (hc : c ≠ .keyWait) :
    (s.keyDown k).runStop = some c := by
  rw [← h]
  unfold State.keyDown
  split
  · rfl
  · next hf =>
    have hk : ¬s.kwArmed = true := fun hk =>
      hc (Option.some.inj (h.symm.trans (State.runStop_keyWait.mpr ⟨by simpa using hf, hk⟩)))
    rw [State.resolveKeyWait, State.setKey_kwArmed, if_neg hk]
    exact State.runStop_congr rfl rfl rfl rfl

@[simp] theorem State.resetOp_snd (s : State) : s.resetOp.snd = false := rfl

/-- R204: the first Reset left SND at 0, so the second one has no falling edge to emit. -/
theorem State.resetOp_resetOp (s : State) : s.resetOp.resetOp = s.resetOp := by
  rw [State.resetOp, State.resetOp_snd, if_neg Bool.false_ne_true, List.append_nil]
  rfl

/-- R201: a program that is too large changes nothing. -/
theorem loadProgram_rejects {bytes : List Byte} (s : State) (h : 0xE00 < bytes.length) :
    loadProgram bytes s = (.programTooLarge, s) :=
  if_neg (by simp only [programWellFormed, Config.progMax, decide_eq_true_eq]; omega)

/-! ## The end of a run -/

/-- The end is the first state with a stop, so no other run end comes after it. -/
theorem RunEnds.not_before {s t u : State} {m n : Nat} {b c : RunStop} (hm : RunEnds s m b t) (hn : RunEnds s n c u) :
    ¬m < n := by
  obtain ⟨hrun, hstop, -⟩ := hm
  obtain ⟨-, -, hfirst⟩ := hn
  intro hlt
  simp [hfirst m hlt t hrun] at hstop

theorem RunStop.good_iff {c : RunStop} : c.good = true ↔ c = .selfJump := by
  cases c <;> simp [RunStop.good]

theorem runEndsWell_iff {s t : State} {n : Nat} : RunEndsWell s n t ↔ RunEnds s n .selfJump t := by
  simp only [RunEndsWell, RunStop.good_iff, exists_eq_right]

/-- R212 (c), with the jump's address as a number. -/
theorem State.selfJump_iff_exists {s : State} :
    s.selfJump = true ↔ s.pc.toNat ≤ 0xFFE ∧
      ∃ a : BitVec 12, a.toNat = s.pc.toNat ∧ decodeWord (s.mem.readWord s.pc.toNat) = some (.jp a) := by
  rw [State.selfJump_iff]
  refine and_congr_right fun hpc => ?_
  have haddr (a : BitVec 12) : a.toNat = s.pc.toNat ↔ a = s.pc.setWidth 12 := by
    rw [← BitVec.toNat_inj, BitVec.toNat_setWidth, Nat.mod_eq_of_lt (by omega)]
  simp only [haddr, exists_eq_left]

end Sys2Proof.Machine
end

section
/-! The statements about Reset and the stops of a run (spec/70_reset_and_hazards.md). -/

namespace Sys2Proof.Machine

/-- Settles O59: both states are the run-down of the first one, which counts modulo F. -/
theorem stoppedMachineBecomesPeriodic : Obligations.StoppedMachineBecomesPeriodic := by
  intro n s c hstop hc hctr hhist hn
  have runs_down (m : Nat) (hm : max 255 Config.historyCap * Config.cadence ≤ m) :
      ∃ t, runCalls m s = .next t ∧ t = { s.runDown Config.cadence Config.historyCap m with trace := t.trace } := by
    obtain ⟨ticks, h⟩ := countedCalls_iterate m hctr hhist
    exact ⟨_, runCalls_counts_at_stop m hstop hc, h.eq_runDown hm⟩
  obtain ⟨t, hrun, ht⟩ := runs_down n hn
  obtain ⟨u, hrun', hu⟩ := runs_down (n + Config.cadence) (by omega)
  rw [State.runDown_add_cadence] at hu
  exact ⟨t, u, hrun, congrArg State.dt ht, congrArg State.st ht, congrArg State.snd ht, congrArg State.hist ht, hrun',
    by rw [ht]; exact hu⟩

/-- Settles O58: StepCalls are skipped or only counted, and every other operation is looked at by itself. -/
theorem stopsStandStill : Obligations.StopsStandStill := by
  refine ⟨fun n s c hstop => ?_, fun o s t c hstop happly hleft => ?_⟩
  · by_cases hc : c = .faulted
    · subst hc
      exact ⟨s, runCalls_faulted n hstop, hstop, fun _ => rfl, rfl⟩
    · exact ⟨_, runCalls_counts_at_stop n hstop hc, (State.countCall_iterate_runStop _ _ n s).trans hstop,
        fun h => absurd h hc, State.countCall_iterate_onlyCounting _ _ n s⟩
  · cases o with
    | reset => exact .inr (.inl rfl)
    | loadProgram bytes =>
      refine .inr (.inr ⟨bytes, rfl, not_lt.mp fun hlong => hleft ?_⟩)
      obtain rfl := Host.Outcome.next.inj happly
      rw [loadProgram_rejects s hlong, hstop]
    | stepCall => exact absurd (step_keeps_runStop hstop happly) hleft
    | keyDown k =>
      obtain rfl := Host.Outcome.next.inj happly
      exact .inl ⟨not_not.mp fun hc => hleft (State.keyDown_runStop k hstop hc), k, rfl⟩
    | keyUp k =>
      obtain rfl := Host.Outcome.next.inj happly
      exact absurd ((State.keyUp_runStop s k).trans hstop) hleft

/-- Settles O60: neither of two ends comes before the other, and the one good stop is the jump to itself. -/
theorem runHasOneEnd : Obligations.RunHasOneEnd := by
  refine ⟨fun s m n b c t u hm hn => ?_, fun s n t => ?_⟩
  · obtain rfl : m = n := Nat.le_antisymm (not_lt.mp (hn.not_before hm)) (not_lt.mp (hm.not_before hn))
    obtain ⟨hrun, hstop, -⟩ := hm
    obtain ⟨hrun', hstop', -⟩ := hn
    obtain rfl := Host.Outcome.next.inj (hrun.symm.trans hrun')
    exact ⟨rfl, Option.some.inj (hstop.symm.trans hstop'), rfl⟩
  · rw [runEndsWell_iff, RunEnds, State.runStop_selfJump, State.faulted_eq_false, State.selfJump_iff_exists]
    simp only [and_assoc]

/-- Settles O23: Reset writes every field anew and leaves SND at 0, so a second one emits nothing. -/
theorem resetIsIdempotent : Obligations.ResetIsIdempotent := fun s =>
  ⟨rfl, rfl, s.resetOp_resetOp⟩

end Sys2Proof.Machine
end

section
/-! SUPPORT. The decoder read from the word's side (spec/30_encoding.md R60 to R66): which words a row of the opcode map
takes, as numbers, and what the bytes of a word decode to. -/

namespace Sys2Proof

/-! ## A word and its two bytes (R46) -/

theorem joinBytes_toNat (hi lo : Byte) : (joinBytes hi lo).toNat = hi.toNat * 256 + lo.toNat := by
  rw [joinBytes, BitVec.toNat_append, ← Nat.shiftLeft_add_eq_or_of_lt lo.isLt, Nat.shiftLeft_eq]

/-- A word given by the numbers of its bytes, as the statements give it. -/
theorem eq_joinBytes {w : Word} {hi lo : Byte} (h : w.toNat = hi.toNat * 256 + lo.toNat) : w = joinBytes hi lo :=
  BitVec.eq_of_toNat_eq (h.trans (joinBytes_toNat hi lo).symm)

theorem joinBytes_hiByte_loByte (w : Word) : joinBytes (hiByte w) (loByte w) = w := by
  apply BitVec.eq_of_toNat_eq
  rw [joinBytes_toNat]
  simp [hiByte, loByte, Nat.shiftRight_eq_div_pow]
  omega

theorem joinBytes_ofNat (w : Word) : joinBytes (BitVec.ofNat 8 (w.toNat / 256)) (BitVec.ofNat 8 w.toNat) = w := by
  apply BitVec.eq_of_toNat_eq
  rw [joinBytes_toNat, BitVec.toNat_ofNat, BitVec.toNat_ofNat]
  omega

theorem decode_of_decodeWord {hi lo : Byte} {i : Instr} (rest : List Byte) (h : decodeWord (joinBytes hi lo) = some i) :
    decode (hi :: lo :: rest) = .ok (i, rest) := by
  simp only [decode, h]

theorem decode_of_unknown {hi lo : Byte} (rest : List Byte) (h : decodeWord (joinBytes hi lo) = none) :
    decode (hi :: lo :: rest) = .error (.unknownInstruction (joinBytes hi lo)) := by
  simp only [decode, h]

/-! ## The row a word decodes to (R64, R65) -/

@[simp] theorem Op.assemble_op (w : Word) (o : Op) : (o.assemble w).op = o := by cases o <;> rfl

/-- The row of R64 applied to a word: it takes the word exactly when the word decodes to it. -/
theorem masked_eq_pattern_iff_decodeWord (w : Word) (o : Op) :
    w &&& o.mask = o.pattern ↔ decodeWord w = some (o.assemble w) := by
  refine ⟨fun h => decodeWord_of_matchesWord (beq_iff_eq.mpr h), fun h => ?_⟩
  obtain ⟨p, hp, hpo⟩ := Option.map_eq_some_iff.mp h
  obtain rfl : p = o := by rw [← p.assemble_op w, hpo, Op.assemble_op]
  exact beq_iff_eq.mp (classify_eq_some_iff.mp hp)

/-- A word that decodes at all is taken by the row of its instruction, whose operands are the word's fields. -/
theorem decodeWord_eq_some {w : Word} {i : Instr} (h : decodeWord w = some i) :
    ∃ o : Op, w &&& o.mask = o.pattern ∧ i = o.assemble w := by
  obtain ⟨o, ho, rfl⟩ := Option.map_eq_some_iff.mp h
  exact ⟨o, beq_iff_eq.mp (classify_eq_some_iff.mp ho), rfl⟩

/-- Of a word's row and any other row: they are the same exactly when the other takes the word too. -/
theorem Op.eq_iff_masked {w : Word} {o p : Op} (ho : w &&& o.mask = o.pattern) :
    o = p ↔ w &&& p.mask = p.pattern :=
  ⟨fun h => h ▸ ho, fun hp => Op.matchesWord_unique (beq_iff_eq.mpr ho) (beq_iff_eq.mpr hp)⟩

theorem decodeWord_eq_none_iff {w : Word} : decodeWord w = none ↔ ∀ o : Op, w &&& o.mask ≠ o.pattern := by
  rw [decodeWord, Option.map_eq_none_iff, classify, List.find?_eq_none]
  simp only [Op.mem_all, forall_const, Op.matchesWord, beq_iff_eq]

theorem listing_eq_empty_iff {w : Word} : listing w = "" ↔ decodeWord w = none := by
  rw [decodeWord, Option.map_eq_none_iff, listing]
  cases classify w with
  | none => simp
  | some o => cases o <;> simp [Op.label]

/-! ## Masks as numbers (R62) -/

/-- A mask of the bits from `m` on and of the `k` lowest ones, as a number. -/
theorem and_outerBits_toNat (w : Word) {m k : Nat} (hm : m ≤ 16) (hk : k ≤ m) :
    (w &&& (BitVec.allOnes 16 <<< m ||| BitVec.ofNat 16 (2 ^ k - 1))).toNat =
      w.toNat / 2 ^ m * 2 ^ m + w.toNat % 2 ^ k := by
  have high : (w &&& BitVec.allOnes 16 <<< m).toNat = 2 ^ m * (w.toNat / 2 ^ m) := by
    rw [← BitVec.shiftLeft_ushiftRight, BitVec.toNat_shiftLeft, BitVec.toNat_ushiftRight, Nat.shiftRight_eq_div_pow,
      Nat.shiftLeft_eq, Nat.mul_comm]
    exact Nat.mod_eq_of_lt (Nat.lt_of_le_of_lt (Nat.mul_div_le _ _) w.isLt)
  have low : (w &&& BitVec.ofNat 16 (2 ^ k - 1)).toNat = w.toNat % 2 ^ k := by
    have hk16 : 2 ^ k ≤ 2 ^ 16 := Nat.pow_le_pow_right (by omega) (by omega)
    rw [BitVec.toNat_and, BitVec.toNat_ofNat, Nat.mod_eq_of_lt (by omega), Nat.and_two_pow_sub_one_eq_mod]
  have hlow : w.toNat % 2 ^ k < 2 ^ m :=
    Nat.lt_of_lt_of_le (Nat.mod_lt _ (by positivity)) (Nat.pow_le_pow_right (by omega) hk)
  rw [BitVec.and_or_distrib_left, BitVec.toNat_or, high, low, ← Nat.two_pow_add_eq_or_of_lt hlow, Nat.mul_comm]

/-- What a format's mask leaves of the word with number `n`. -/
def Format.fixedBits (n : Nat) : Format → Nat
  | .Z => n
  | .A | .XK | .XYN => n / 4096 * 4096
  | .XY => n / 4096 * 4096 + n % 16
  | .X => n / 4096 * 4096 + n % 256

theorem Format.and_mask_toNat (f : Format) (w : Word) : (w &&& f.mask).toNat = f.fixedBits w.toNat := by
  cases f with
  | Z => exact (and_outerBits_toNat w (m := 0) (k := 0) (by decide) (by decide)).trans (by show _ = w.toNat; omega)
  | A | XK | XYN =>
    exact (and_outerBits_toNat w (m := 12) (k := 0) (by decide) (by decide)).trans
      (by show _ = w.toNat / 4096 * 4096; omega)
  | XY => exact and_outerBits_toNat w (m := 12) (k := 4) (by decide) (by decide)
  | X => exact and_outerBits_toNat w (m := 12) (k := 8) (by decide) (by decide)

theorem Op.masked_eq_pattern_iff (o : Op) (w : Word) :
    w &&& o.mask = o.pattern ↔ o.format.fixedBits w.toNat = o.pattern.toNat := by
  rw [← BitVec.toNat_inj, Op.mask, Format.and_mask_toNat]

/-- The table of R66, family by family. -/
theorem decodeWord_eq_none_iff_family (w : Word) {fam n kk : Nat} (hfam : fam = w.toNat / 4096) (hn : n = w.toNat % 16)
    (hkk : kk = w.toNat % 256) :
    decodeWord w = none ↔
      (fam = 0x0 ∧ w.toNat ≠ 0x00E0 ∧ w.toNat ≠ 0x00EE) ∨
      (fam = 0x5 ∧ n ≠ 0) ∨
      (fam = 0x8 ∧ n ∈ [0x8, 0x9, 0xA, 0xB, 0xC, 0xD, 0xF]) ∨
      (fam = 0x9 ∧ n ≠ 0) ∨
      (fam = 0xE ∧ kk ∉ [0x9E, 0xA1]) ∨
      (fam = 0xF ∧ kk ∉ [0x07, 0x0A, 0x15, 0x18, 0x1E, 0x29, 0x33, 0x55, 0x65]) := by
  have rows : decodeWord w = none ↔ ∀ o ∈ Op.all, o.format.fixedBits w.toNat ≠ o.pattern.toNat := by
    simp only [decodeWord_eq_none_iff, ne_eq, Op.masked_eq_pattern_iff, Op.mem_all, forall_const]
  rw [rows]
  simp only [Op.all, List.cons_append, List.nil_append, List.forall_mem_cons, Op.format, Op.pattern, Format.fixedBits,
    BitVec.reduceToNat, ← hfam, ← hn, ← hkk, ne_eq]
  have hw := w.isLt
  have hlt : fam < 16 := by omega
  -- within one family the rows differ in `n` or `kk` alone
  interval_cases fam <;> simp <;> omega

/-! ## Encoding a decoded word (R65) -/

/-- The encoder gives back the number of the word; `SHR` and `SHL` alone leave a field, y, unread. -/
theorem encode_assemble_toNat {w : Word} {o : Op} (h : w &&& o.mask = o.pattern) :
    (encode (o.assemble w)).toNat =
      if o = .shr ∨ o = .shl then w.toNat / 256 * 256 + w.toNat % 16 else w.toNat := by
  have hw := w.isLt
  have hp := (o.masked_eq_pattern_iff w).mp h
  have hx : (fieldX w).val = w.toNat / 256 % 16 := (fieldX_eq_iff.mp rfl).symm
  have hy : (fieldY w).val = w.toNat / 16 % 16 := (fieldY_eq_iff.mp rfl).symm
  have hn : (fieldN w).toNat = w.toNat % 16 := (fieldN_eq_iff.mp rfl).symm
  have hkk : (fieldKK w).toNat = w.toNat % 256 := (fieldKK_eq_iff.mp rfl).symm
  have haddr : (fieldAddr w).toNat = w.toNat % 4096 := (fieldAddr_eq_iff.mp rfl).symm
  rw [encode_eq_ofNat_wordNat, BitVec.toNat_ofNat, Instr.wordNat, Op.assemble_op, ← hp]
  clear h hp
  cases o <;> simp [Op.assemble, Instr.addOperands, Op.format, Format.fixedBits, hx, hy, hn, hkk, haddr] <;> omega

end Sys2Proof
end

section
/-! The statements about the encoding (spec/30_encoding.md). -/

namespace Sys2Proof

/-- Settles O1: the word decodes back by the decoder's own lemma, and its two bytes join to the word again. -/
theorem decodeEncodeRoundTrip : Obligations.DecodeEncodeRoundTrip := fun i rest =>
  ⟨decodeWord_encode i,
    decode_of_decodeWord rest ((congrArg decodeWord (joinBytes_hiByte_loByte (encode i))).trans (decodeWord_encode i))⟩

/-- Settles O2: the operands are the word's fields, and each row takes the words that decode to it. -/
theorem opcodeMapRows : Obligations.OpcodeMapRows := by
  intro w x y kk addr n hx hy hkk haddr hn
  obtain rfl := fieldX_eq_iff.mpr hx.symm
  obtain rfl := fieldY_eq_iff.mpr hy.symm
  obtain rfl := fieldKK_eq_iff.mpr hkk.symm
  obtain rfl := fieldAddr_eq_iff.mpr haddr.symm
  obtain rfl := fieldN_eq_iff.mpr hn.symm
  have row := masked_eq_pattern_iff_decodeWord w
  exact ⟨row .cls, row .ret, row .jp, row .call, row .seImm, row .sneImm, row .seReg, row .ldImm, row .addImm,
    row .ldReg, row .orReg, row .andReg, row .xorReg, row .addReg, row .subReg, row .shr, row .subnReg, row .shl,
    row .sneReg, row .ldI, row .jpV0, row .rnd, row .drw, row .skp, row .sknp, row .ldVxDT, row .ldVxK, row .ldDTVx,
    row .ldSTVx, row .addI, row .ldF, row .ldB, row .storeBlock, row .loadBlock⟩

/-- Settles O3: the table is the decoder's read family by family, and from bytes an unknown word is the only error. -/
theorem unknownWordsExactly : Obligations.UnknownWordsExactly := by
  intro w fam n kk hfam hn hkk
  refine ⟨decodeWord_eq_none_iff_family w hfam hn hkk, ⟨fun h rest => ?_, fun h => ?_⟩, listing_eq_empty_iff.symm⟩
  · have hw := joinBytes_ofNat w
    rw [decode_of_unknown rest (hw.symm ▸ h), hw]
  · cases hd : decodeWord w with
    | none => rfl
    | some i =>
      have hok := decode_of_decodeWord [] ((congrArg decodeWord (joinBytes_ofNat w)).trans hd)
      exact absurd (hok.symm.trans (h [])) (by simp)

/-- Settles O4: the fields put back give the number of the word, for SHR and SHL without its y field. -/
theorem encodeGivesBackDecodedWord : Obligations.EncodeGivesBackDecodedWord := by
  intro w i hd
  obtain ⟨o, ho, rfl⟩ := decodeWord_eq_some hd
  have henc := encode_assemble_toNat ho
  have shifts : (o = .shr ∨ o = .shl) ↔ (w &&& 0xF00F = 0x8006 ∨ w &&& 0xF00F = 0x800E) :=
    or_congr (Op.eq_iff_masked ho) (Op.eq_iff_masked ho)
  refine ⟨fun hne => ?_, fun hshift => ?_⟩
  · rw [if_neg (mt shifts.mp (not_or.mpr hne))] at henc
    exact BitVec.eq_of_toNat_eq henc
  · rw [if_pos (shifts.mpr hshift)] at henc
    exact BitVec.eq_of_toNat_eq (henc.trans (and_outerBits_toNat w (m := 8) (k := 4) (by decide) (by decide)).symm)

/-- Settles O5: rows that one word matches are one row. -/
theorem opcodeRowsDisjoint : Obligations.OpcodeRowsDisjoint := fun _ _ _ ho hp =>
  (Op.eq_iff_masked ho).mpr hp

/-- Settles O6: each word is decoded by running the decoder. -/
theorem sampleWordsDecode : Obligations.SampleWordsDecode := by
  unfold Obligations.SampleWordsDecode
  decide

end Sys2Proof
end

section
/-! SUPPORT. Every instruction answers a next state (spec/40_step_cycle.md R80): either the entry into a fault
(spec/60_exceptions.md R163), or a state with FAULT and the trace as they were. -/

namespace Sys2Proof.Machine

theorem withinMemory_answers (base count : Nat) (s u : State) : ∃ t, withinMemory base count s (.next u) = .next t := by
  rcases withinMemory_eq base count s (.next u) with ⟨-, -, h⟩ | ⟨-, h⟩ <;> exact ⟨_, h⟩

theorem popAndJump_of_empty {s : State} (h : s.stack = []) : popAndJump s = raise .emptyStack 0 s := by
  rw [popAndJump, h]
  rfl

theorem popAndJump_of_concat {s : State} {rest : List Word} {a : Word} (h : s.stack = rest ++ [a]) :
    popAndJump s = .next ((s.setStack rest).setPc a) := by
  simp only [popAndJump, h, List.getLast?_concat, List.dropLast_concat, jumpTo]

theorem exec_answers (i : Instr) (s : State) : ∃ t, exec i s = .next t := by
  cases i with
  | ret =>
    obtain h | ⟨rest, a, h⟩ := s.stack.eq_nil_or_concat'
    · exact ⟨_, popAndJump_of_empty h⟩
    · exact ⟨_, popAndJump_of_concat h⟩
  | drw | ldB | storeBlock | loadBlock => exact withinMemory_answers ..
  | _ => exact ⟨_, rfl⟩

/-- `t` is the entry of `s` into a fault, which changes FAULT and the trace alone, or leaves these two alone. -/
def FaultsOrKeeps (s t : State) : Prop :=
  (∃ c info, c ≠ .none ∧ t = s.takeFault c (s.pc - 2) info) ∨ (t.fault = s.fault ∧ t.trace = s.trace)

theorem FaultsOrKeeps.of_withinMemory {base count : Nat} {s t u : State}
    (h : withinMemory base count s (.next u) = .next t) (hu : FaultsOrKeeps s u) : FaultsOrKeeps s t := by
  obtain ⟨-, -, e⟩ | ⟨-, e⟩ := withinMemory_eq base count s (.next u)
  · exact .inl ⟨_, _, by decide, (Host.Outcome.next.inj (e.symm.trans h)).symm⟩
  · exact Host.Outcome.next.inj (e.symm.trans h) ▸ hu

theorem exec_faultsOrKeeps {i : Instr} {s t : State} (h : exec i s = .next t) : FaultsOrKeeps s t := by
  cases i with
  | ret =>
    obtain ⟨-, rfl⟩ | ⟨_, _, -, rfl⟩ := popAndJump_next h
    · exact .inl ⟨_, _, by decide, rfl⟩
    · exact .inr ⟨rfl, rfl⟩
  | seImm | sneImm | seReg | sneReg | skp | sknp =>
    obtain ⟨-, rfl⟩ | ⟨-, rfl⟩ := skipIf_next h <;> exact .inr ⟨rfl, rfl⟩
  | drw | ldB | storeBlock => exact .of_withinMemory h (.inr ⟨rfl, rfl⟩)
  | loadBlock x =>
    refine .of_withinMemory h (.inr ?_)
    rw [loadBlockRegs_frame]
    exact ⟨rfl, rfl⟩
  | _ =>
    obtain rfl := Host.Outcome.next.inj h
    exact .inr ⟨rfl, rfl⟩

end Sys2Proof.Machine
end

section
/-! SUPPORT. What a StepCall answers, from the facts that decide its case (spec/40_step_cycle.md R80 to R87), the
converse of the laws of the step cycle. -/

namespace Sys2Proof.Machine

/-! ## The CPU's part (R81) -/

theorem cpuStep_of_armed {s : State} (hk : s.kwArmed = true) : cpuStep s = .next s := by
  rw [cpuStep, if_pos hk]

theorem cpuStep_of_fetch_beyond {s : State} (hk : s.kwArmed = false) (hpc : 0xFFE < s.pc.toNat) :
    cpuStep s = .next (s.takeFault .fetchOutOfBounds s.pc (s.pc.toNat + 1)) := by
  rw [cpuStep, if_neg (Bool.eq_false_iff.mp hk), State.fetch_eq_none.mpr hpc]

theorem cpuStep_of_fetch {s : State} (hk : s.kwArmed = false) (hpc : s.pc.toNat ≤ 0xFFE) :
    cpuStep s = dispatchWord (s.mem.readWord s.pc.toNat) s := by
  rw [cpuStep, if_neg (Bool.eq_false_iff.mp hk), State.fetch_eq_some.mpr ⟨hpc, rfl⟩]

theorem cpuStep_answers (s : State) : ∃ t, cpuStep s = .next t := by
  cases hk : s.kwArmed with
  | true => exact ⟨s, cpuStep_of_armed hk⟩
  | false =>
    obtain hpc | hpc := Nat.lt_or_ge 0xFFE s.pc.toNat
    · exact ⟨_, cpuStep_of_fetch_beyond hk hpc⟩
    · rw [cpuStep_of_fetch hk hpc, dispatchWord]
      cases decodeWord (s.mem.readWord s.pc.toNat) with
      | none => exact ⟨_, rfl⟩
      | some i => exact exec_answers i s.advance

/-! ## The whole call (R80) -/

theorem step_of_faulted {s : State} (h : s.fault.cause ≠ .none) : step s = .next s :=
  if_pos (State.faulted_eq_true.mpr h)

theorem step_of_cpuStep {s t : State} (hs : s.fault.cause = .none) (h : cpuStep s = .next t) :
    step s = .next (t.endCall Config.cadence Config.historyCap) := by
  simp only [step, stepCallWith, State.faulted_eq_false.mpr hs, h, Bool.false_eq_true, if_false]

theorem State.endCall_of_unfaulted {t : State} (F K : Nat) (h : t.fault.cause = .none) :
    t.endCall F K = t.countCall F K := by
  rw [State.endCall, State.faulted_eq_false.mpr h, if_neg Bool.false_ne_true]

theorem State.endCall_of_faulted {t : State} (F K : Nat) (h : t.fault.cause ≠ .none) : t.endCall F K = t :=
  if_pos (State.faulted_eq_true.mpr h)

theorem step_answers (s : State) : ∃ t, step s = .next t := by
  by_cases hs : s.fault.cause = .none
  · obtain ⟨t, ht⟩ := cpuStep_answers s
    exact ⟨_, step_of_cpuStep hs ht⟩
  · exact ⟨s, step_of_faulted hs⟩

/-- The word at PC is given by the numbers of its two bytes, as the statements give it. -/
theorem cpuStep_of_word {s : State} {w : Word} (hk : s.kwArmed = false) (hpc : s.pc.toNat ≤ 0xFFE)
    (hw : w.toNat = (s.mem.read s.pc.toNat).toNat * 256 + (s.mem.read (s.pc.toNat + 1)).toNat) :
    cpuStep s = dispatchWord w s := by
  rw [cpuStep_of_fetch hk hpc, Memory.readWord, ← eq_joinBytes hw]

theorem dispatchWord_of_decodes {w : Word} {i : Instr} (s : State) (h : decodeWord w = some i) :
    dispatchWord w s = exec i s.advance := by
  rw [dispatchWord, h]

theorem dispatchWord_of_unknown {w : Word} (s : State) (h : decodeWord w = none) :
    dispatchWord w s = .next (s.advance.emit (.diag w s.pc)) := by
  rw [dispatchWord, h]

/-- R80 to R87 when an instruction is fetched: its meaning runs on the advanced state, and the call is counted unless
it faulted. -/
theorem step_runs_instruction {s : State} {w : Word} {i : Instr} (hs : s.fault.cause = .none) (hk : s.kwArmed = false)
    (hpc : s.pc.toNat ≤ 0xFFE)
    (hw : w.toNat = (s.mem.read s.pc.toNat).toNat * 256 + (s.mem.read (s.pc.toNat + 1)).toNat)
    (hd : decodeWord w = some i) :
    ∃ t, exec i s.advance = .next t ∧
      (t.fault.cause = .none → step s = .next (t.countCall Config.cadence Config.historyCap)) ∧
      (t.fault.cause ≠ .none → step s = .next t) := by
  obtain ⟨t, ht⟩ := exec_answers i s.advance
  have hstep := step_of_cpuStep hs (((cpuStep_of_word hk hpc hw).trans (dispatchWord_of_decodes s hd)).trans ht)
  exact ⟨t, ht, fun h => State.endCall_of_unfaulted _ _ h ▸ hstep, fun h => State.endCall_of_faulted _ _ h ▸ hstep⟩

end Sys2Proof.Machine
end

section
/-! The statements about one step (spec/40_step_cycle.md). -/

namespace Sys2Proof.Machine

/-- Settles O18: an instruction's answer is a next state, and so is every other case of a step. -/
theorem everyInstructionAndStepAnswersNext : Obligations.EveryInstructionAndStepAnswersNext :=
  ⟨exec_answers, step_answers⟩

/-- Settles O7: the advanced state is the state with PC + 2. -/
theorem stepRunsDecodedInstruction : Obligations.StepRunsDecodedInstruction := fun _ _ _ hs hk hpc hw hd =>
  step_runs_instruction hs hk hpc hw hd

/-- Settles O8: an unknown word is no fault, so the call is counted. -/
theorem stepUnknownWordEmitsDiag : Obligations.StepUnknownWordEmitsDiag := fun s _ hs hk hpc hw hd =>
  (step_of_cpuStep hs ((cpuStep_of_word hk hpc hw).trans (dispatchWord_of_unknown s hd))).trans
    (congrArg _ (State.endCall_of_unfaulted _ _ hs))

/-- Settles O9: nothing is fetched, and the call that faulted is not counted. -/
theorem stepFetchBeyondMemoryFaults : Obligations.StepFetchBeyondMemoryFaults := fun _ hs hk hpc =>
  ⟨rfl, (step_of_cpuStep hs (cpuStep_of_fetch_beyond hk hpc)).trans
    (congrArg _ (State.endCall_of_faulted _ _ (show Cause.fetchOutOfBounds ≠ .none by decide)))⟩

end Sys2Proof.Machine
end

section
/-! SUPPORT. The host's operations case by case (spec/60_exceptions.md R171, R172, spec/70_reset_and_hazards.md R200,
R201): what each answers on a faulted and on an unfaulted machine. -/

namespace Sys2Proof.Machine

/-! ## KeyDown and KeyUp -/

theorem State.keyDown_of_faulted {s : State} (k : Key) (h : s.fault.cause ≠ .none) : s.keyDown k = s :=
  if_pos (State.faulted_eq_true.mpr h)

theorem State.keyUp_of_faulted {s : State} (k : Key) (h : s.fault.cause ≠ .none) : s.keyUp k = s :=
  if_pos (State.faulted_eq_true.mpr h)

theorem State.keyDown_of_unfaulted {s : State} (k : Key) (h : s.fault.cause = .none) :
    s.keyDown k = (s.setKey k true).resolveKeyWait k := by
  rw [State.keyDown, State.faulted_eq_false.mpr h, if_neg Bool.false_ne_true]

theorem State.keyUp_of_unfaulted {s : State} (k : Key) (h : s.fault.cause = .none) : s.keyUp k = s.setKey k false := by
  rw [State.keyUp, State.faulted_eq_false.mpr h, if_neg Bool.false_ne_true]

theorem State.resolveKeyWait_of_armed {s : State} (k : Key) (h : s.kwArmed = true) :
    s.resolveKeyWait k = (s.writeV s.kwReg (keyByte k)).disarmKeyWait :=
  if_pos h

theorem State.resolveKeyWait_of_unarmed {s : State} (k : Key) (h : s.kwArmed = false) : s.resolveKeyWait k = s :=
  if_neg (Bool.eq_false_iff.mp h)

theorem keyByte_toNat (k : Key) : (keyByte k).toNat = k.val := by
  have := k.isLt
  rw [keyByte, BitVec.toNat_ofNat]
  omega

theorem State.setKey_getElem (s : State) (k j : Key) (b : Bool) :
    (s.setKey k b).keys[j] = if j = k then b else s.keys[j] := by
  simp only [State.setKey_keys, Fin.getElem_fin, Vector.getElem_set, Fin.ext_iff, eq_comm]

/-! ## LoadProgram -/

/-- The machine after an accepted load: reset, with the program at 0x200 (R201). -/
def State.afterLoad (s : State) (bytes : List Byte) : State :=
  s.resetOp.setMem (s.resetOp.mem.writeBytes Config.progBase bytes)

theorem loadProgram_accepts {bytes : List Byte} (s : State) (h : bytes.length ≤ 0xE00) :
    loadProgram bytes s = (.ok, s.afterLoad bytes) :=
  if_pos (decide_eq_true h)

theorem State.afterLoad_wf {bytes : List Byte} (s : State) (h : bytes.length ≤ 0xE00) : (s.afterLoad bytes).mem.wf :=
  Memory.writeBytes_wf Memory.reset_wf (by simp only [Config.progBase, Config.memSize]; omega)

theorem State.afterLoad_read {bytes : List Byte} (s : State) (h : bytes.length ≤ 0xE00) (a : Nat) :
    (s.afterLoad bytes).mem.read a =
      if 0x200 ≤ a ∧ a < 0x200 + bytes.length then bytes.getD (a - 0x200) 0 else State.reset.mem.read a :=
  Memory.read_writeBytes Memory.reset_wf (by simp only [Config.progBase, Config.memSize]; omega) a

theorem State.afterLoad_read_program {bytes : List Byte} (s : State) (h : bytes.length ≤ 0xE00) {j : Nat}
    (hj : j < bytes.length) : (s.afterLoad bytes).mem.read (0x200 + j) = bytes.getD j 0 := by
  rw [s.afterLoad_read h, if_pos (by omega), Nat.add_sub_cancel_left]

end Sys2Proof.Machine
end

section
/-! SUPPORT. The invariants of spec/10_state.md section 10 (R29): what each kind of change needs to keep them. -/

namespace Sys2Proof.Machine

/-- The invariants speak of eight fields; a change of any other field keeps them. -/
theorem Inv.congr {s t : State} (h : Inv s) (hmem : t.mem = s.mem := by rfl) (hpc : t.pc = s.pc := by rfl)
    (hstack : t.stack = s.stack := by rfl) (hhist : t.hist = s.hist := by rfl) (hctr : t.ctr = s.ctr := by rfl)
    (hfault : t.fault = s.fault := by rfl) (harmed : t.kwArmed = s.kwArmed := by rfl)
    (hreg : t.kwReg = s.kwReg := by rfl) : Inv t where
  memory := hmem ▸ h.memory
  pcBound := hpc ▸ h.pcBound
  stack := hstack ▸ h.stack
  history := hhist ▸ h.history
  counter := hctr ▸ h.counter
  info := hfault ▸ h.info
  keyWait := by
    rw [State.unfaulted, harmed, hfault, hpc, hmem, hreg]
    exact h.keyWait
  faultFits := by
    have hfits := h.faultFits
    unfold FaultFits at hfits ⊢
    rwa [hfault, hpc, hstack]

/-- The invariants on an unfaulted, unarmed state with a new PC, stack and memory. -/
theorem Inv.of_running {s t : State} (h : Inv s) (hs : s.fault.cause = .none) (hk : t.kwArmed = false)
    (hmem : t.mem.wf) (hpc : t.pc.toNat ≤ 0x10FE) (hstack : ∀ a ∈ t.stack, 2 ≤ a.toNat ∧ a.toNat ≤ 0x1000)
    (hhist : t.hist = s.hist := by rfl) (hctr : t.ctr = s.ctr := by rfl) (hfault : t.fault = s.fault := by rfl) :
    Inv t where
  memory := hmem
  pcBound := hpc
  stack := hstack
  history := hhist ▸ h.history
  counter := hctr ▸ h.counter
  info := hfault ▸ h.info
  keyWait := fun hk' => absurd hk' (by simp [hk])
  faultFits := by
    have hfits := h.faultFits
    unfold FaultFits at hfits ⊢
    rw [hfault, hs]
    rwa [hs] at hfits

/-! ## An instruction on the advanced state (R83) -/

/-- The state in which the meaning of i runs: the instruction stands before PC, and neither a fault is recorded nor a
key-wait armed. -/
structure AfterFetch (i : Instr) (s : State) : Prop where
  inv       : Inv s
  unfaulted : s.fault.cause = .none
  unarmed   : s.kwArmed = false
  pcLow     : 2 ≤ s.pc.toNat
  pcHigh    : s.pc.toNat ≤ 0x1000
  fetched   : decodeWord (s.mem.readWord (s.pc.toNat - 2)) = some i

theorem pc_add_two_toNat {pc : Word} (h : pc.toNat ≤ 0x10FE) : (pc + 2).toNat = pc.toNat + 2 := by
  rw [BitVec.toNat_add, show BitVec.toNat (2 : Word) = 2 from rfl]
  omega

/-- The advance of R83 keeps the invariants and leaves the fetched instruction before PC. -/
theorem Inv.afterFetch {s : State} {i : Instr} (h : Inv s) (hs : s.fault.cause = .none) (hk : s.kwArmed = false)
    (hpc : s.pc.toNat ≤ 0xFFE) (hd : decodeWord (s.mem.readWord s.pc.toNat) = some i) : AfterFetch i s.advance := by
  have hpc2 : s.advance.pc.toNat = s.pc.toNat + 2 := pc_add_two_toNat h.pcBound
  exact {
    inv := h.of_running hs hk h.memory (by omega) h.stack
    unfaulted := hs
    unarmed := hk
    pcLow := by omega
    pcHigh := by omega
    fetched := by rw [hpc2]; exact hd }

namespace AfterFetch

variable {i : Instr} {s t : State}

/-- A change of PC, the stack and memory within their bounds. -/
theorem inv_of (h : AfterFetch i s) (hmem : t.mem.wf := by exact h.inv.memory)
    (hpc : t.pc.toNat ≤ 0x10FE := by exact h.inv.pcBound)
    (hstack : ∀ a ∈ t.stack, 2 ≤ a.toNat ∧ a.toNat ≤ 0x1000 := by exact h.inv.stack)
    (hk : t.kwArmed = s.kwArmed := by rfl) (hhist : t.hist = s.hist := by rfl) (hctr : t.ctr = s.ctr := by rfl)
    (hfault : t.fault = s.fault := by rfl) : Inv t :=
  h.inv.of_running h.unfaulted (hk.trans h.unarmed) hmem hpc hstack hhist hctr hfault

/-- R160, R163: the two faults an instruction can enter on the unbounded stack fit their cause. -/
theorem inv_takeFault (h : AfterFetch i s) {c : Cause} {info : Nat} (hinfo : info < 2 ^ 17)
    (hc : (c = .emptyStack ∧ info = 0 ∧ s.stack = []) ∨ (c = .outOfBounds ∧ 0xFFF < info)) :
    Inv (s.takeFault c (s.pc - 2) info) where
  memory := h.inv.memory
  pcBound := h.inv.pcBound
  stack := h.inv.stack
  history := h.inv.history
  counter := h.inv.counter
  info := hinfo
  keyWait := fun hk => absurd (hk.symm.trans h.unarmed) (by decide)
  faultFits := by
    have haddr : s.pc = s.pc - 2 + 2 := by rw [BitVec.sub_add_cancel]
    have hbound : (s.pc - 2).toNat ≤ 0xFFE := by
      have hlow := h.pcLow
      have hhigh := h.pcHigh
      rw [BitVec.toNat_sub, show BitVec.toNat (2 : Word) = 2 from rfl]
      omega
    obtain ⟨rfl, rfl, hstack⟩ | ⟨rfl, hhigh⟩ := hc
    · exact ⟨haddr, hbound, rfl, hstack⟩
    · exact ⟨haddr, hbound, hhigh⟩

theorem inv_skipIf {b : Bool} (h : AfterFetch i s) (ht : skipIf b s = .next t) : Inv t := by
  obtain ⟨-, rfl⟩ | ⟨-, rfl⟩ := skipIf_next ht
  · have hpc : (s.pc + 2).toNat = s.pc.toNat + 2 := pc_add_two_toNat h.inv.pcBound
    have hhigh := h.pcHigh
    exact h.inv_of (hpc := by rw [State.setPc_pc]; omega)
  · exact h.inv

/-- R45: the access is within memory or its highest address, a sum of 16 bits and at most 15, is recorded. -/
theorem inv_withinMemory {count : Nat} {u : State} (h : AfterFetch i s)
    (ht : withinMemory s.i.toNat count s (.next u) = .next t) (hcount : count ≤ 16)
    (hu : count = 0 ∨ s.i.toNat + count - 1 ≤ 0xFFF → Inv u) : Inv t := by
  obtain ⟨hbeyond, -, e⟩ | ⟨hin, e⟩ := withinMemory_eq s.i.toNat count s (.next u)
  · obtain rfl := Host.Outcome.next.inj (e.symm.trans ht)
    have := s.i.isLt
    exact h.inv_takeFault (by omega) (.inr ⟨rfl, hbeyond⟩)
  · exact Host.Outcome.next.inj (e.symm.trans ht) ▸ hu hin

/-- Bytes written within memory keep its canonical form (R45). -/
theorem inv_writeBytes {bs : List Byte} (h : AfterFetch i s)
    (hin : bs.length = 0 ∨ s.i.toNat + bs.length - 1 ≤ 0xFFF) (hpos : 0 < bs.length) :
    Inv (s.setMem (s.mem.writeBytes s.i.toNat bs)) :=
  h.inv_of (hmem := Memory.writeBytes_wf h.inv.memory (by simp only [Config.memSize]; omega))

/-- Every instruction keeps the invariants. -/
theorem inv_exec (h : AfterFetch i s) (ht : exec i s = .next t) : Inv t := by
  have haddr (a : BitVec 12) : (addrWord a).toNat ≤ 0xFFF := by
    have := a.isLt
    rw [addrWord_toNat]
    omega
  cases i with
  | ret =>
    obtain ⟨hempty, rfl⟩ | ⟨rest, a, hstack, rfl⟩ := popAndJump_next ht
    · exact h.inv_takeFault (by decide) (.inl ⟨rfl, rfl, hempty⟩)
    · have hall := h.inv.stack
      rw [hstack] at hall
      have ha := hall a (by simp)
      exact h.inv_of (hpc := by rw [State.setPc_pc]; omega) (hstack := fun b hb => hall b (List.mem_append_left _ hb))
  | jp addr =>
    obtain rfl := jumpTo_next ht
    exact h.inv_of (hpc := Nat.le_trans (haddr addr) (by decide))
  | jpV0 addr =>
    obtain rfl := jumpTo_next ht
    have ha := addr.isLt
    have hv := (s.readV 0).isLt
    exact h.inv_of (hpc := by rw [State.setPc_pc, addrWord_add_byteWord_toNat]; omega)
  | call addr =>
    obtain ⟨hfull, -⟩ | ⟨-, rfl⟩ := pushAndJump_next (limit := Config.stackLimit) (w := addrWord addr) ht
    · cases hfull
    · refine h.inv_of (hpc := Nat.le_trans (haddr addr) (by decide)) (hstack := fun a ha => ?_)
      obtain ha | ha := List.mem_append.mp ha
      · exact h.inv.stack a ha
      · exact List.mem_singleton.mp ha ▸ ⟨h.pcLow, h.pcHigh⟩
  | seImm | sneImm | seReg | sneReg | skp | sknp => exact h.inv_skipIf ht
  | ldVxK x =>
    obtain rfl := Host.Outcome.next.inj ht
    exact { h.inv with
      keyWait := fun _ => ⟨h.unfaulted, h.pcLow, h.pcHigh, h.fetched⟩ }
  | drw x y n => exact h.inv_withinMemory ht (Nat.le_of_lt n.isLt) fun _ => h.inv.congr
  | ldB x => exact h.inv_withinMemory ht (by decide) fun hin => h.inv_writeBytes hin (Nat.zero_lt_succ _)
  | storeBlock x =>
    have hlen := blockBytes_length s x
    exact h.inv_withinMemory ht (by have := x.isLt; rw [blockCount]; omega) fun hin =>
      h.inv_writeBytes (hlen ▸ hin) (by omega)
  | loadBlock x =>
    refine h.inv_withinMemory ht (by have := x.isLt; rw [blockCount]; omega) fun _ => ?_
    rw [loadBlockRegs_frame]
    exact h.inv.congr
  | _ =>
    obtain rfl := Host.Outcome.next.inj ht
    exact h.inv.congr

end AfterFetch

/-! ## A step -/

/-- Counting a call keeps the invariants (R87). -/
theorem Inv.countCall {s : State} (h : Inv s) : Inv (s.countCall Config.cadence Config.historyCap) := by
  have hctr := State.countCall_ctr Config.cadence Config.historyCap s
  have hhist := State.countCall_hist_length Config.cadence Config.historyCap s h.history
  have hF := Config.cadence_pos
  have hc := h.counter
  rw [State.countCall_frame] at hctr hhist ⊢
  exact { h with
    history := hhist
    counter := by rw [hctr]; split <;> omega }

/-- The CPU's part of a call on an unfaulted machine keeps the invariants (R81). -/
theorem Inv.cpuStep {s t : State} (h : Inv s) (hs : s.fault.cause = .none) (ht : cpuStep s = .next t) : Inv t := by
  obtain ⟨-, rfl⟩ | ⟨hk, hpc, rfl⟩ | ⟨hk, hpc, -, rfl⟩ | ⟨hk, hpc, i, hd, hexec⟩ := cpuStep_cases ht
  · exact h
  · have hb := h.pcBound
    exact { h with
      info := by show s.pc.toNat + 1 < 2 ^ 17; omega
      keyWait := fun hk' => absurd (hk'.symm.trans hk) (by decide)
      faultFits := ⟨rfl, hpc, rfl⟩ }
  · refine h.of_running hs hk h.memory ?_ h.stack
    show (s.pc + 2).toNat ≤ 0x10FE
    rw [pc_add_two_toNat h.pcBound]
    omega
  · exact (h.afterFetch hs hk hpc hd).inv_exec hexec

theorem Inv.step {s t : State} (h : Inv s) (ht : step s = .next t) : Inv t := by
  obtain ⟨-, rfl⟩ | ⟨hs, u, hu, hend⟩ := step_cases ht
  · exact h
  · have hinv := h.cpuStep (State.faulted_eq_false.mp hs) hu
    obtain ⟨-, rfl⟩ | ⟨-, rfl⟩ := hend
    · exact hinv
    · exact hinv.countCall

/-! ## The host's operations -/

theorem Inv.reset : Inv State.reset where
  memory := Memory.reset_wf
  pcBound := by decide
  stack := by simp [State.reset]
  history := Nat.zero_le _
  counter := Config.cadence_pos
  info := by decide
  keyWait := fun hk => absurd hk (by decide)
  faultFits := ⟨rfl, rfl⟩

theorem Inv.resetOp (s : State) : Inv s.resetOp := Inv.reset.congr

theorem Inv.loadProgram {s : State} (h : Inv s) (bytes : List Byte) : Inv (loadProgram bytes s).2 := by
  obtain hlen | hlen := Nat.lt_or_ge 0xE00 bytes.length
  · rw [loadProgram_rejects s hlen]
    exact h
  · rw [loadProgram_accepts s hlen]
    have hreset := Inv.resetOp s
    exact hreset.of_running rfl rfl (State.afterLoad_wf s hlen) hreset.pcBound hreset.stack

theorem Inv.keyDown {s : State} (h : Inv s) (k : Key) : Inv (s.keyDown k) := by
  by_cases hs : s.fault.cause = .none
  · rw [State.keyDown_of_unfaulted k hs]
    cases hk : s.kwArmed with
    | false =>
      rw [State.resolveKeyWait_of_unarmed k (by exact hk)]
      exact h.congr
    | true =>
      rw [State.resolveKeyWait_of_armed k (by exact hk)]
      exact h.of_running hs rfl h.memory h.pcBound h.stack
  · rw [State.keyDown_of_faulted k hs]
    exact h

theorem Inv.keyUp {s : State} (h : Inv s) (k : Key) : Inv (s.keyUp k) := by
  by_cases hs : s.fault.cause = .none
  · rw [State.keyUp_of_unfaulted k hs]
    exact h.congr
  · rw [State.keyUp_of_faulted k hs]
    exact h

/-- One operation of the host is answered and keeps the invariants. -/
theorem Inv.applyOp {s : State} (h : Inv s) (o : HostOp) : ∃ t, applyOp o s = .next t ∧ Inv t := by
  cases o with
  | reset => exact ⟨_, rfl, Inv.resetOp s⟩
  | loadProgram bytes => exact ⟨_, rfl, h.loadProgram bytes⟩
  | stepCall =>
    obtain ⟨t, ht⟩ := step_answers s
    exact ⟨t, ht, h.step ht⟩
  | keyDown k => exact ⟨_, rfl, h.keyDown k⟩
  | keyUp k => exact ⟨_, rfl, h.keyUp k⟩

theorem runOps_cons {o : HostOp} {s t : State} (ops : List HostOp) (h : applyOp o s = .next t) :
    runOps (o :: ops) s = runOps ops t := by
  rw [runOps, h]

end Sys2Proof.Machine
end

section
/-! The statements about the invariants (spec/10_state.md section 10). -/

namespace Sys2Proof.Machine

/-- Settles O20: each invariant holds of the values of R28. -/
theorem resetMeetsInvariants : Obligations.ResetMeetsInvariants := Inv.reset

/-- Settles O19: the CPU's part keeps the invariants, instruction by instruction, and so does the counting. -/
theorem stepKeepsInvariants : Obligations.StepKeepsInvariants := fun _ _ h ht => h.step ht

/-- Settles O21, by induction on the operations. -/
theorem operationSequencesKeepInvariants : Obligations.OperationSequencesKeepInvariants := by
  intro ops
  induction ops with
  | nil => exact fun s h => ⟨s, rfl, h⟩
  | cons o ops ih =>
    intro s h
    obtain ⟨t, ht, hinv⟩ := h.applyOp o
    rw [runOps_cons ops ht]
    exact ih t hinv

end Sys2Proof.Machine
end

section
/-! SUPPORT. The tick in full (spec/60_exceptions.md R175 to R177): its events, and that neither the tick nor any
instruction reads HIST (spec/44_display.md R140). -/

namespace Sys2Proof.Machine

/-! ## The events of a tick -/

/-- The edge of `sound_on` that the decremented ST makes (R176). -/
def soundEvents (st : Byte) (snd : Bool) : List Event :=
  if 0 < st.toNat ∧ snd = false then [.soundStart] else if st.toNat = 0 ∧ snd = true then [.soundStop] else []

theorem byte_toNat_eq_zero_iff {b : Byte} : b.toNat = 0 ↔ b = 0 := BitVec.toNat_inj (y := 0#8)

theorem byte_toNat_pos_iff {b : Byte} : 0 < b.toNat ↔ b ≠ 0 :=
  Nat.pos_iff_ne_zero.trans byte_toNat_eq_zero_iff.not

theorem State.soundUpdate_trace (s : State) : s.soundUpdate.trace = s.trace ++ soundEvents s.st s.snd := by
  simp only [soundEvents, byte_toNat_pos_iff, byte_toNat_eq_zero_iff]
  unfold State.soundUpdate
  split
  · rfl
  · split
    · rfl
    · exact (List.append_nil _).symm

/-- Where SND and the new ST disagree there is an edge and its event. -/
theorem soundEvents_of_edge {st : Byte} {snd : Bool} (h : decide (st ≠ 0) ≠ snd) :
    (decide (st ≠ 0) = true ∧ st ≠ 0 ∧ Event.soundStart ∈ soundEvents st snd) ∨
    (decide (st ≠ 0) = false ∧ st = 0 ∧ Event.soundStop ∈ soundEvents st snd) := by
  by_cases hst : st = 0
  · subst hst
    cases snd with
    | false => exact absurd rfl h
    | true => exact .inr ⟨rfl, rfl, List.mem_singleton_self _⟩
  · cases snd with
    | false =>
      refine .inl ⟨decide_eq_true hst, hst, ?_⟩
      rw [soundEvents, if_pos ⟨byte_toNat_pos_iff.mpr hst, rfl⟩]
      exact List.mem_singleton_self _
    | true => exact absurd (decide_eq_true hst) h

/-- R175: everything the F-th call writes, its events included. -/
theorem State.countCall_eq_of_tick {F : Nat} {s : State} (K : Nat) (h : s.ctr + 1 = F) :
    s.countCall F K =
      { s with
        ctr := 0, dt := decTimer s.dt, st := decTimer s.st, snd := decide (decTimer s.st ≠ 0)
        hist := remember K s.hist s.fb
        trace := s.trace ++ soundEvents (decTimer s.st) s.snd ++ [.frame (glow K (remember K s.hist s.fb))] } := by
  rw [State.countCall, if_pos h, State.tick_eq, State.soundUpdate_trace]
  rfl

/-! ## No instruction reads the history -/

theorem skipIf_setHist {b : Bool} {s t : State} (h : List Framebuffer) (ht : skipIf b s = .next t) :
    skipIf b (s.setHist h) = .next (t.setHist h) := by
  cases b <;> obtain rfl := Host.Outcome.next.inj ht <;> rfl

theorem popAndJump_setHist {s t : State} (h : List Framebuffer) (ht : popAndJump s = .next t) :
    popAndJump (s.setHist h) = .next (t.setHist h) := by
  obtain ⟨hempty, rfl⟩ | ⟨rest, a, hstack, rfl⟩ := popAndJump_next ht
  · exact popAndJump_of_empty hempty
  · exact popAndJump_of_concat hstack

theorem withinMemory_setHist {base count : Nat} {s t u : State} (h : List Framebuffer)
    (ht : withinMemory base count s (.next u) = .next t) :
    withinMemory base count (s.setHist h) (.next (u.setHist h)) = .next (t.setHist h) := by
  rw [withinMemory] at ht ⊢
  split at ht
  · next hc =>
    obtain rfl := raise_next ht
    exact if_pos hc
  · next hc =>
    obtain rfl := Host.Outcome.next.inj ht
    exact if_neg hc

theorem loadBlockRegs_setHist (s : State) (base : Nat) (x : Reg) (h : List Framebuffer) :
    (s.setHist h).loadBlockRegs base x = (s.loadBlockRegs base x).setHist h :=
  List.foldl_hom (State.setHist · h) fun _ _ => rfl

theorem exec_setHist {i : Instr} {s t : State} (h : List Framebuffer) (ht : exec i s = .next t) :
    exec i (s.setHist h) = .next (t.setHist h) := by
  cases i with
  | ret => exact popAndJump_setHist h ht
  | seImm | sneImm | seReg | sneReg | skp | sknp => exact skipIf_setHist h ht
  | drw | ldB | storeBlock => exact withinMemory_setHist h ht
  | loadBlock x =>
    have hw := withinMemory_setHist h ht
    rw [← loadBlockRegs_setHist] at hw
    exact hw
  | _ =>
    obtain rfl := Host.Outcome.next.inj ht
    rfl

theorem cpuStep_setHist {s t : State} (h : List Framebuffer) (ht : cpuStep s = .next t) :
    cpuStep (s.setHist h) = .next (t.setHist h) := by
  obtain ⟨hk, rfl⟩ | ⟨hk, hpc, rfl⟩ | ⟨hk, hpc, hd, rfl⟩ | ⟨hk, hpc, i, hd, hexec⟩ := cpuStep_cases ht
  · exact cpuStep_of_armed hk
  · exact cpuStep_of_fetch_beyond hk hpc
  · exact (cpuStep_of_fetch (s := s.setHist h) hk hpc).trans (dispatchWord_of_unknown _ hd)
  · exact ((cpuStep_of_fetch (s := s.setHist h) hk hpc).trans (dispatchWord_of_decodes _ hd)).trans
      (exec_setHist h hexec)

/-! ## States that differ in the history alone -/

/-- `t` is `s` but for HIST and the pixel lists of the Frames in the trace. -/
structure DifferInHistory (s t : State) : Prop where
  frame : t = { s with hist := t.hist, trace := t.trace }
  trace : t.trace.map Event.withoutPixels = s.trace.map Event.withoutPixels

theorem DifferInHistory.setHist (s : State) (h : List Framebuffer) : DifferInHistory (s.setHist h) s := ⟨rfl, rfl⟩

/-- The counting reads HIST only to write HIST and a Frame (R140). -/
theorem DifferInHistory.countCall {s t : State} (h : DifferInHistory s t) (F K : Nat) :
    DifferInHistory (s.countCall F K) (t.countCall F K) := by
  obtain ⟨hframe, htrace⟩ := h
  have hctr : t.ctr = s.ctr := by rw [hframe]
  by_cases htick : s.ctr + 1 = F
  · rw [State.countCall_eq_of_tick K htick, State.countCall_eq_of_tick K (hctr ▸ htick)]
    have hst : t.st = s.st := by rw [hframe]
    have hsnd : t.snd = s.snd := by rw [hframe]
    refine ⟨by rw [hframe], ?_⟩
    simp only [List.map_append, htrace, hst, hsnd, List.map_cons, Event.withoutPixels]
  · rw [State.countCall_of_no_tick K htick, State.countCall_of_no_tick K (hctr ▸ htick)]
    exact ⟨by rw [hctr, hframe]; rfl, htrace⟩

theorem DifferInHistory.countCall_iterate {s t : State} (h : DifferInHistory s t) (F K n : Nat) :
    DifferInHistory ((State.countCall F K)^[n] s) ((State.countCall F K)^[n] t) := by
  induction n generalizing s t with
  | zero => exact h
  | succ n ih =>
    rw [Function.iterate_succ_apply, Function.iterate_succ_apply]
    exact ih (h.countCall F K)

theorem step_setHist {s t : State} (h : List Framebuffer) (ht : step s = .next t) :
    ∃ t', step (s.setHist h) = .next t' ∧ DifferInHistory t' t := by
  obtain ⟨hs, rfl⟩ | ⟨hs, u, hu, hend⟩ := step_cases ht
  · exact ⟨_, step_of_faulted (State.faulted_eq_true.mp hs), .setHist t h⟩
  · have hstep := step_of_cpuStep (s := s.setHist h) (State.faulted_eq_false.mp hs) (cpuStep_setHist h hu)
    refine ⟨_, hstep, ?_⟩
    obtain ⟨hf, rfl⟩ | ⟨hf, rfl⟩ := hend
    · rw [State.endCall_of_faulted _ _ (by exact State.faulted_eq_true.mp hf)]
      exact .setHist t h
    · rw [State.endCall_of_unfaulted _ _ (by exact State.faulted_eq_false.mp hf)]
      exact (DifferInHistory.setHist u h).countCall _ _

/-! ## What the CPU's part of a call leaves to the counting -/

/-- SND and CTR stay, and the trace is only added to. -/
theorem cpuStep_keeps_counting {s t : State} (h : cpuStep s = .next t) :
    t.snd = s.snd ∧ t.ctr = s.ctr ∧ ∃ events, t.trace = s.trace ++ events := by
  obtain ⟨-, rfl⟩ | ⟨-, -, rfl⟩ | ⟨-, -, -, rfl⟩ | ⟨-, -, i, -, hexec⟩ := cpuStep_cases h
  · exact ⟨rfl, rfl, [], (List.append_nil _).symm⟩
  · exact ⟨rfl, rfl, _, rfl⟩
  · exact ⟨rfl, rfl, _, rfl⟩
  · have row := exec_accessRow hexec
    refine ⟨row.snd, row.ctr, ?_⟩
    obtain ⟨c, info, -, rfl⟩ | ⟨-, htrace⟩ := exec_faultsOrKeeps hexec
    · exact ⟨_, rfl⟩
    · exact ⟨[], htrace.trans (List.append_nil _).symm⟩

end Sys2Proof.Machine
end

section
/-! SUPPORT. StepCalls of a machine that waits for a key (spec/60_exceptions.md section 6), and the KeyDown that ends
the wait (R171). -/

namespace Sys2Proof.Machine

theorem State.runStop_of_waiting {s : State} (hs : s.fault.cause = .none) (hk : s.kwArmed = true) :
    s.runStop = some .keyWait :=
  State.runStop_keyWait.mpr ⟨State.faulted_eq_false.mpr hs, hk⟩

theorem runCalls_of_waiting {s : State} (n : Nat) (hs : s.fault.cause = .none) (hk : s.kwArmed = true) :
    runCalls n s = .next ((State.countCall Config.cadence Config.historyCap)^[n] s) :=
  runCalls_counts_at_stop n (State.runStop_of_waiting hs hk) (by decide)

/-- R87, R177: CTR counts modulo F and the timers fall by the ticks, whatever HIST holds. -/
theorem countCall_iterate_timers {F K : Nat} {s : State} (n : Nat) (hc : s.ctr < F) :
    ((State.countCall F K)^[n] s).ctr = (s.ctr + n) % F ∧
    ((State.countCall F K)^[n] s).dt.toNat = s.dt.toNat - (s.ctr + n) / F ∧
    ((State.countCall F K)^[n] s).st.toNat = s.st.toNat - (s.ctr + n) / F := by
  obtain ⟨ticks, h⟩ := countedCalls_iterate (s := s.setHist []) n hc (Nat.zero_le K)
  obtain ⟨hframe, -⟩ := (DifferInHistory.setHist s []).countCall_iterate F K n
  have hcalls : s.ctr + n = ((State.countCall F K)^[n] (s.setHist [])).ctr + ticks * F := by
    rw [Nat.add_comm _ (ticks * F)]
    exact h.calls
  rw [hframe, hcalls, Nat.add_mul_mod_self_right, Nat.mod_eq_of_lt h.counter,
    Nat.add_mul_div_right _ _ (Nat.zero_lt_of_lt hc), Nat.div_eq_of_lt h.counter, Nat.zero_add]
  exact ⟨rfl, h.dt, h.st⟩

/-- R171: a KeyDown at a wait sets the flag, writes the key number to the waiting register and disarms. -/
theorem State.keyDown_of_waiting {s : State} (k : Key) (hs : s.fault.cause = .none) (hk : s.kwArmed = true) :
    s.keyDown k = ((s.setKey k true).writeV s.kwReg (keyByte k)).disarmKeyWait := by
  rw [State.keyDown_of_unfaulted k hs]
  exact State.resolveKeyWait_of_armed k hk

theorem State.keyDown_of_not_waiting {s : State} (k : Key) (hs : s.fault.cause = .none) (hk : s.kwArmed = false) :
    s.keyDown k = s.setKey k true := by
  rw [State.keyDown_of_unfaulted k hs]
  exact State.resolveKeyWait_of_unarmed k hk

/-- After that KeyDown the waiting register holds the key number and every other register what it held. -/
theorem State.keyDown_of_waiting_v {s : State} (k : Key) (hs : s.fault.cause = .none) (hk : s.kwArmed = true) :
    (s.keyDown k).v[s.kwReg].toNat = k.val ∧ ∀ r : Reg, r ≠ s.kwReg → (s.keyDown k).v[r] = s.v[r] := by
  rw [State.keyDown_of_waiting k hs hk]
  refine ⟨?_, ((s.setKey k true).writeV_onlyVAt s.kwReg (keyByte k)).2⟩
  rw [← keyByte_toNat k]
  exact congrArg _ ((s.setKey k true).writeV_getElem_self s.kwReg (keyByte k))

theorem State.keyUp_kwArmed (s : State) (k : Key) : (s.keyUp k).kwArmed = s.kwArmed := by
  unfold State.keyUp
  split <;> rfl

/-- A StepCall does not end a wait (R81). -/
theorem step_keeps_armed {s t : State} (hk : s.kwArmed = true) (ht : step s = .next t) : t.kwArmed = true := by
  by_cases hs : s.fault.cause = .none
  · rw [step_of_cpuStep hs (cpuStep_of_armed hk), State.endCall_of_unfaulted _ _ hs] at ht
    obtain rfl := Host.Outcome.next.inj ht
    rw [State.countCall_frame]
    exact hk
  · rw [step_of_faulted hs] at ht
    obtain rfl := Host.Outcome.next.inj ht
    exact hk

/-- The step that runs `LD Vx,K` arms the wait and, being no fault, is counted (R153, R174). -/
theorem step_arms_keyWait {s : State} {w : Word} {x : Reg} (hs : s.fault.cause = .none) (hk : s.kwArmed = false)
    (hpc : s.pc.toNat ≤ 0xFFE)
    (hw : w.toNat = (s.mem.read s.pc.toNat).toNat * 256 + (s.mem.read (s.pc.toNat + 1)).toNat)
    (hd : decodeWord w = some (.ldVxK x)) :
    step s = .next ((s.advance.armKeyWait x).countCall Config.cadence Config.historyCap) := by
  obtain ⟨t, ht, hcounted, -⟩ := step_runs_instruction hs hk hpc hw hd
  obtain rfl := Host.Outcome.next.inj ht
  exact hcounted hs

/-- From there on every StepCall is only counted. -/
theorem runCalls_arms_keyWait {s : State} {w : Word} {x : Reg} (n : Nat) (hs : s.fault.cause = .none)
    (hk : s.kwArmed = false) (hpc : s.pc.toNat ≤ 0xFFE)
    (hw : w.toNat = (s.mem.read s.pc.toNat).toNat * 256 + (s.mem.read (s.pc.toNat + 1)).toNat)
    (hd : decodeWord w = some (.ldVxK x)) :
    ∃ t, runCalls (n + 1) s = .next t ∧ OnlyCounting (s.advance.armKeyWait x) t := by
  have hfirst := State.countCall_onlyCounting Config.cadence Config.historyCap (s.advance.armKeyWait x)
  rw [runCalls_succ n (step_arms_keyWait hs hk hpc hw hd)]
  exact ⟨_, runCalls_of_waiting n (by rw [hfirst]; exact hs) (by rw [hfirst]; rfl),
    hfirst.trans (State.countCall_iterate_onlyCounting _ _ n _)⟩

theorem runOps_append {ops : List HostOp} {s t : State} (more : List HostOp) (h : runOps ops s = .next t) :
    runOps (ops ++ more) s = runOps more t := by
  induction ops generalizing s with
  | nil =>
    obtain rfl := Host.Outcome.next.inj h
    rfl
  | cons o ops ih =>
    rw [runOps] at h
    cases ho : applyOp o s with
    | next u =>
      rw [ho] at h
      rw [List.cons_append, runOps_cons _ ho]
      exact ih h
    | fault r => exact nomatch r
    | refused r =>
      rw [ho] at h
      exact nomatch h

end Sys2Proof.Machine
end

section
/-! The statements about the scheduler, the history's invisibility and the key-wait (spec/60_exceptions.md,
spec/44_display.md section 3). -/

namespace Sys2Proof.Machine

/-- Settles O15: a waiting machine's StepCalls are only counted. -/
theorem timersRunThroughKeyWait : Obligations.TimersRunThroughKeyWait := by
  intro n s hs hk hc
  obtain ⟨hctr, hdt, hst⟩ := countCall_iterate_timers (K := Config.historyCap) n hc
  exact ⟨_, runCalls_of_waiting n hs hk, hctr, hdt, hst, State.countCall_iterate_onlyCounting _ _ n s⟩

/-- Settles O29: after the step that arms the wait every StepCall is only counted, until the KeyDown resolves it. -/
theorem keyWaitProtocol : Obligations.KeyWaitProtocol := by
  intro s w x n k hs hk hpc hw hd
  obtain ⟨t, hrun, hframe⟩ := runCalls_arms_keyWait n hs hk hpc hw hd
  have hs' : t.fault.cause = .none := by rw [hframe]; exact hs
  have hk' : t.kwArmed = true := by rw [hframe]; rfl
  have hreg : t.kwReg = x := by rw [hframe]; rfl
  have hv : t.v = s.v := by rw [hframe]; rfl
  have hpc' : t.pc = s.pc + 2 := by rw [hframe]; rfl
  obtain ⟨hx, hothers⟩ := State.keyDown_of_waiting_v k hs' hk'
  have hmem : KeepsMemory s t := by rw [hframe]; exact fun _ => rfl
  subst hreg
  refine ⟨t, t.keyDown k, hrun, hk', rfl, hv, hpc', hmem, runOps_append [.keyDown k] hrun, hx,
    fun r hr => by rw [hothers r hr, hv], ?_⟩
  rw [State.keyDown_of_waiting k hs' hk']
  exact ⟨rfl, hpc'⟩

/-- Settles O13: the F-th call is the tick with its events, any other raises CTR. -/
theorem countedCallTicksEveryFth : Obligations.CountedCallTicksEveryFth := by
  intro F K s
  refine ⟨State.countCall_of_no_tick K, fun h => ⟨_, _, decTimer_toNat s.dt, decTimer_toNat s.st, ?_⟩⟩
  rw [State.countCall_eq_of_tick K h]
  simp only [soundEvents, byte_toNat_pos_iff]

/-- Settles O17: a step from the other history makes the same of everything but HIST and the Frames. -/
theorem historyInvisibleToProgram : Obligations.HistoryInvisibleToProgram := by
  intro s t h ht
  obtain ⟨t', ht', hframe, htrace⟩ := step_setHist h ht
  exact ⟨t', ht', hframe, htrace⟩

/-- Settles O16: the CPU's part leaves SND alone, and the tick moves it with the event of the edge. -/
theorem soundChangesOnlyAtTick : Obligations.SoundChangesOnlyAtTick := by
  intro s t ht
  obtain ⟨hs, rfl⟩ | ⟨-, u, hu, hend⟩ := step_cases ht
  · exact ⟨fun hne => absurd rfl hne, fun hnone => absurd hnone (State.faulted_eq_true.mp hs)⟩
  obtain ⟨hsnd, hctr, events, htrace⟩ := cpuStep_keeps_counting hu
  obtain ⟨hf, rfl⟩ | ⟨-, rfl⟩ := hend
  · exact ⟨fun hne => absurd hsnd hne, fun _ hnone => absurd hnone (State.faulted_eq_true.mp hf)⟩
  rw [← hctr, ← hsnd]
  by_cases htick : u.ctr + 1 = Config.cadence
  · rw [State.countCall_eq_of_tick _ htick]
    refine ⟨fun hne => ⟨htick, ?_⟩, fun _ _ _ => rfl⟩
    rw [htrace, List.append_assoc, List.append_assoc, List.drop_left]
    obtain ⟨hon, hst, hmem⟩ | ⟨hoff, hst, hmem⟩ := soundEvents_of_edge hne
    · exact .inl ⟨hon, hst, by simp [hmem]⟩
    · exact .inr ⟨hoff, hst, by simp [hmem]⟩
  · rw [State.countCall_of_no_tick _ htick]
    exact ⟨fun hne => absurd rfl hne, fun _ _ h => absurd h htick⟩

/-- Settles O12: a waiting StepCall is only counted. -/
theorem stepSuspendedOnlyCounts : Obligations.StepSuspendedOnlyCounts := fun s hs hk =>
  ⟨_, step_counts_at_stop (State.runStop_of_waiting hs hk) (by decide), rfl, State.countCall_onlyCounting _ _ s⟩

end Sys2Proof.Machine
end

section
/-! The statements about the host's operations and the faulted machine (spec/60_exceptions.md sections 1 and 3,
spec/70_reset_and_hazards.md section 1). -/

namespace Sys2Proof.Machine

/-- Settles O10: each operation looks at the fault record first. -/
theorem faultedMachineIsFrozen : Obligations.FaultedMachineIsFrozen := fun _ n k hs =>
  ⟨runCalls_faulted n (State.runStop_faulted.mpr (State.faulted_eq_true.mpr hs)), State.keyDown_of_faulted k hs,
    State.keyUp_of_faulted k hs⟩

/-- Settles O26: KeyDown is the write of the flag and, at a wait, the write of the waiting register. -/
theorem keyDownSetsFlagAndResolvesWait : Obligations.KeyDownSetsFlagAndResolvesWait := by
  intro k s hs
  refine ⟨fun j => ?_, State.keyDown_of_waiting_v k hs, fun hk => ?_, ?_⟩
  · rw [← s.setKey_getElem k j true]
    cases hk : s.kwArmed with
    | true => rw [State.keyDown_of_waiting k hs hk]; rfl
    | false => rw [State.keyDown_of_not_waiting k hs hk]
  · rw [State.keyDown_of_not_waiting k hs hk, State.setKey_v]
  · cases hk : s.kwArmed with
    | true => rw [State.keyDown_of_waiting k hs hk]; rfl
    | false => rw [State.keyDown_of_not_waiting k hs hk, ← hk]; rfl

/-- Settles O27: KeyUp is the write of the flag. -/
theorem keyUpClearsFlag : Obligations.KeyUpClearsFlag := fun k s hs => by
  rw [State.keyUp_of_unfaulted k hs]
  exact ⟨fun j => s.setKey_getElem k j false, rfl⟩

/-- Settles O11: Reset and an accepted load leave a clear record, everything else the old one. -/
theorem onlyResetOrLoadLeavesFault : Obligations.OnlyResetOrLoadLeavesFault := by
  intro o s t hs ht
  have unchanged (h : t = s) : t.fault.cause ≠ .none := h ▸ hs
  cases o with
  | reset =>
    obtain rfl := Host.Outcome.next.inj ht
    exact iff_of_true rfl (.inl rfl)
  | loadProgram bytes =>
    have haccepted : (HostOp.loadProgram bytes = .reset ∨
        ∃ bytes', HostOp.loadProgram bytes = .loadProgram bytes' ∧ bytes'.length ≤ 0xE00) ↔ bytes.length ≤ 0xE00 := by
      simp
    rw [haccepted]
    obtain rfl := Host.Outcome.next.inj ht
    obtain hlen | hlen := Nat.lt_or_ge 0xE00 bytes.length
    · exact iff_of_false (unchanged (by rw [loadProgram_rejects s hlen])) (by omega)
    · rw [loadProgram_accepts s hlen]
      exact iff_of_true rfl hlen
  | stepCall =>
    refine iff_of_false (unchanged ?_) (by simp)
    exact (Host.Outcome.next.inj ((step_of_faulted hs).symm.trans ht)).symm
  | keyDown k =>
    refine iff_of_false (unchanged ?_) (by simp)
    rw [← Host.Outcome.next.inj ht, State.keyDown_of_faulted k hs]
  | keyUp k =>
    refine iff_of_false (unchanged ?_) (by simp)
    rw [← Host.Outcome.next.inj ht, State.keyUp_of_faulted k hs]

/-- Settles O28: every other operation, and KeyDown on a faulted machine, keeps the wait armed. -/
theorem keyWaitEndsOnlyByKeyDownOrReset : Obligations.KeyWaitEndsOnlyByKeyDownOrReset := by
  intro o s t hk ht hended
  have armed (h : t.kwArmed = true) : False := Bool.false_ne_true (hended.symm.trans h)
  cases o with
  | reset => exact .inr (.inl rfl)
  | loadProgram bytes =>
    refine .inr (.inr ⟨bytes, rfl, not_lt.mp fun hlong => armed ?_⟩)
    rw [← Host.Outcome.next.inj ht, loadProgram_rejects s hlong]
    exact hk
  | stepCall => exact (armed (step_keeps_armed hk ht)).elim
  | keyDown k =>
    refine .inl ⟨not_not.mp fun hs => armed ?_, k, rfl⟩
    rw [← Host.Outcome.next.inj ht, State.keyDown_of_faulted k hs]
    exact hk
  | keyUp k =>
    refine (armed ?_).elim
    rw [← Host.Outcome.next.inj ht, State.keyUp_kwArmed]
    exact hk

/-- Settles O24: an accepted load is Reset and the copy, which reads as the program where it lies. -/
theorem loadProgramCopiesOrRejects : Obligations.LoadProgramCopiesOrRejects := by
  intro bytes s
  refine ⟨loadProgram_rejects s, fun hlen => ⟨_, loadProgram_accepts s hlen, rfl, s.afterLoad_wf hlen,
    fun j hj => s.afterLoad_read_program hlen hj, fun a ha => ?_⟩⟩
  rw [s.afterLoad_read hlen, if_neg (by omega)]

/-- Settles O25: the first byte pair lies at 0x200, where PC stands after the load. -/
theorem loadedProgramStartsAtItsFirstWord : Obligations.LoadedProgramStartsAtItsFirstWord := by
  intro hi lo rest w i s hlen hw hd
  have hhi : (s.afterLoad (hi :: lo :: rest)).mem.read 0x200 = hi :=
    s.afterLoad_read_program hlen (j := 0) (by simp)
  have hlo : (s.afterLoad (hi :: lo :: rest)).mem.read 0x201 = lo :=
    s.afterLoad_read_program hlen (j := 1) (by simp)
  have hword : w.toNat = ((s.afterLoad (hi :: lo :: rest)).mem.read 0x200).toNat * 256 +
      ((s.afterLoad (hi :: lo :: rest)).mem.read 0x201).toNat := by rw [hhi, hlo, hw]
  obtain ⟨u, hu⟩ := step_runs_instruction (s := s.afterLoad (hi :: lo :: rest)) rfl rfl
    (show (0x200 : Word).toNat ≤ 0xFFE by decide) hword hd
  exact ⟨_, u, loadProgram_accepts s hlen, hu⟩

end Sys2Proof.Machine
end

section
/-! SUPPORT. The list of a Frame (spec/44_display.md R137 to R139): which pixels it names at which level, and its
order. -/

namespace Sys2Proof.Machine

/-- R139: row 0 first, and within a row column 0 first. -/
def RasterBefore (p q : Nat × Nat) : Prop := p.2 < q.2 ∨ (p.2 = q.2 ∧ p.1 < q.1)

theorem zipIdx_pairwise_lt {α : Type} (l : List α) : l.zipIdx.Pairwise (fun a b => a.2 < b.2) := by
  rw [← List.pairwise_map (f := Prod.snd) (R := (· < ·)), List.zipIdx_map_snd]
  exact List.pairwise_lt_range'

/-- An entry of one row of a snapshot in the list of on-pixels. -/
theorem rowPixel_eq_some {b : Bool} {x y : Nat} {p : Nat × Nat} (h : (if b then some (x, y) else none) = some p) :
    p = (x, y) := by
  cases b
  · exact nomatch h
  · exact (Option.some.inj h).symm

theorem onPixels_pairwise (fb : Framebuffer) : (onPixels fb).Pairwise RasterBefore := by
  refine List.pairwise_flatMap.mpr ⟨fun ⟨row, y⟩ _ => ?_, (zipIdx_pairwise_lt _).imp ?_⟩
  · refine (zipIdx_pairwise_lt row.toList).filterMap _ fun a b hlt p hp q hq => .inr ?_
    rw [rowPixel_eq_some hp, rowPixel_eq_some hq]
    exact ⟨rfl, hlt⟩
  · rintro ⟨row, y⟩ ⟨row', y'⟩ hlt p hp q hq
    obtain ⟨a, -, hp⟩ := List.mem_filterMap.mp hp
    obtain ⟨b, -, hq⟩ := List.mem_filterMap.mp hq
    rw [rowPixel_eq_some hp, rowPixel_eq_some hq]
    exact .inl hlt

/-- R137, R138: a snapshot's on-pixels are named at the level K less its age. -/
theorem mem_glow {cap : Nat} {hist : List Framebuffer} {x y l : Nat} :
    ((x, y), l) ∈ glow cap hist ↔ ∃ (j : Nat) (hj : j < hist.length),
      x < 64 ∧ y < 32 ∧ Framebuffer.pixel hist[j] x y = true ∧ l = cap - (hist.length - 1 - j) := by
  simp only [glow, List.mem_flatMap, List.mem_map, Prod.exists, Prod.mk.injEq]
  constructor
  · rintro ⟨fb, j, hfb, a, b, hon, ⟨rfl, rfl⟩, hl⟩
    obtain ⟨hj, hfb⟩ := List.mem_zipIdx' hfb
    obtain ⟨hx, hy, hp⟩ := (mem_onPixels _ _ _).mp hon
    exact ⟨j, hj, hx, hy, hfb ▸ hp, hl.symm⟩
  · rintro ⟨j, hj, hx, hy, hp, hl⟩
    exact ⟨hist[j], j, List.mem_zipIdx_iff_getElem?.mpr (List.getElem?_eq_getElem hj), x, y,
      (mem_onPixels _ _ _).mpr ⟨hx, hy, hp⟩, ⟨rfl, rfl⟩, hl.symm⟩

/-- The oldest snapshot comes first, at the lowest level; within a snapshot the order is R139's. -/
theorem glow_pairwise {cap : Nat} {hist : List Framebuffer} (h : hist.length ≤ cap) :
    (glow cap hist).Pairwise (fun p q => p.2 < q.2 ∨ (p.2 = q.2 ∧ RasterBefore p.1 q.1)) := by
  refine List.pairwise_flatMap.mpr ⟨fun ⟨fb, j⟩ _ => ?_, (zipIdx_pairwise_lt _).imp_of_mem ?_⟩
  · exact List.pairwise_map.mpr ((onPixels_pairwise fb).imp fun hpq => .inr ⟨rfl, hpq⟩)
  · rintro ⟨fb, j⟩ ⟨fb', j'⟩ - hmem hlt p hp q hq
    obtain ⟨_, -, rfl⟩ := List.mem_map.mp hp
    obtain ⟨_, -, rfl⟩ := List.mem_map.mp hq
    have hj' := (List.mem_zipIdx' hmem).1
    exact .inl (by simp only at hlt ⊢; omega)

end Sys2Proof.Machine
end

section
/-! SUPPORT. The canonical form of MEM determines the list (spec/20_memory.md; log 9). -/

namespace Sys2Proof.Machine

theorem Memory.read_head (k : Nat) (c : Byte) (rest : Memory) : Memory.read ((k, c) :: rest) k = c :=
  if_pos rfl

/-- A listed cell shows: no canonical memory that lists only addresses above it reads alike. -/
theorem Memory.head_not_below {k : Nat} {c : Byte} {rest m : Memory} (h : Memory.wf ((k, c) :: rest))
    (hread : ∀ a, Memory.read ((k, c) :: rest) a = m.read a) : ¬∀ d ∈ m, k < d.1 := by
  intro habove
  refine (h.2 (k, c) List.mem_cons_self).2 ?_
  rw [← Memory.read_below habove, ← hread k, Memory.read_head]

/-- Memories with the same head that read alike have tails that read alike. -/
theorem Memory.tails_read_alike {k : Nat} {c : Byte} {rest rest' : Memory} (h : Memory.wf ((k, c) :: rest))
    (h' : Memory.wf ((k, c) :: rest')) (hread : ∀ a, Memory.read ((k, c) :: rest) a = Memory.read ((k, c) :: rest') a)
    (a : Nat) : Memory.read rest a = Memory.read rest' a := by
  by_cases ha : a = k
  · subst ha
    rw [Memory.read_below (Memory.wf_tail_above h), Memory.read_below (Memory.wf_tail_above h')]
  · simpa only [Memory.read, if_neg ha] using hread a

theorem Memory.eq_of_read_eq {m m' : Memory} (h : m.wf) (h' : m'.wf) (hread : ∀ a, m.read a = m'.read a) : m = m' := by
  induction m generalizing m' with
  | nil =>
    cases m' with
    | nil => rfl
    | cons d rest' => exact absurd (by simp) (Memory.head_not_below h' fun a => (hread a).symm)
  | cons c rest ih =>
    obtain ⟨k, b⟩ := c
    cases m' with
    | nil => exact absurd (by simp) (Memory.head_not_below h hread)
    | cons d rest' =>
      obtain ⟨k', b'⟩ := d
      have above {j : Nat} {l : Byte} {r : Memory} {i : Nat} (hw : Memory.wf ((j, l) :: r)) (hij : i < j) :
          ∀ e ∈ (j, l) :: r, i < e.1 := fun e he =>
        (List.mem_cons.mp he).elim (fun he => he ▸ hij) fun he => Nat.lt_trans hij (Memory.wf_tail_above hw e he)
      obtain rfl : k = k' := Nat.le_antisymm
        (not_lt.mp fun hlt => Memory.head_not_below h' (fun a => (hread a).symm) (above h hlt))
        (not_lt.mp fun hlt => Memory.head_not_below h hread (above h' hlt))
      obtain rfl : b = b' := by
        have := hread k
        rwa [Memory.read_head, Memory.read_head] at this
      rw [ih (Memory.wf_tail h) (Memory.wf_tail h') (Memory.tails_read_alike h h' hread)]

end Sys2Proof.Machine
end

section
/-! The statements about the afterglow and the memory's form (spec/44_display.md section 3, spec/20_memory.md). -/

namespace Sys2Proof.Machine

/-- Settles O14: the history keeps its last K snapshots, and the Frame is their glow. -/
theorem compositeEmitsAfterglow : Obligations.CompositeEmitsAfterglow := by
  intro K s hK hlen
  have hkept := remember_length K s.hist s.fb hlen
  refine ⟨remember K s.hist s.fb, glow K (remember K s.hist s.fb), rfl, ?_, fun x y l => mem_glow.trans ?_,
    glow_pairwise hkept⟩
  · rw [remember_eq_rtake s.fb hlen, List.rtake, List.length_append, List.length_singleton]
  · refine exists_congr fun j => exists_congr fun hj => and_congr_right fun _ => and_congr_right fun _ =>
      and_congr_right fun _ => ?_
    omega

/-- Settles O32, by induction on the two lists: heads and tails agree. -/
theorem canonicalMemoriesReadingAlikeAreEqual : Obligations.CanonicalMemoriesReadingAlikeAreEqual :=
  fun _ _ => Memory.eq_of_read_eq

end Sys2Proof.Machine
end

section
/-! SUPPORT. Call and return (spec/41_control_flow.md R90, R92): the push for each state of the stack. -/

namespace Sys2Proof.Machine

theorem pushAndJump_of_full {limit : Option Nat} {s : State} (w : Word) (h : limit = some s.stack.length) :
    pushAndJump limit w s = raise .stackOverflow 0 s :=
  if_pos (beq_iff_eq.mpr h)

theorem pushAndJump_of_not_full {limit : Option Nat} {s : State} (w : Word) (h : limit ≠ some s.stack.length) :
    pushAndJump limit w s = .next ((s.setStack (s.stack ++ [s.pc])).setPc w) :=
  if_neg (mt beq_iff_eq.mp h)

end Sys2Proof.Machine
end

section
/-! The statements about call and return (spec/41_control_flow.md). -/

namespace Sys2Proof.Machine

/-- Settles O34: without a limit no stack is full. -/
theorem callPushesReturnAddress : Obligations.CallPushesReturnAddress := fun addr _ =>
  ⟨decodeWord_wordNat (.call addr), _, pushAndJump_of_not_full (limit := none) (addrWord addr) nofun, rfl,
    addrWord_toNat addr, rfl, fun _ => rfl⟩

/-- Settles O35: the stack is full at the limit's length and at no other. -/
theorem callOnFullStackOverflows : Obligations.CallOnFullStackOverflows := fun _ w _ =>
  ⟨fun h => pushAndJump_of_full w (congrArg some h.symm),
    fun h => pushAndJump_of_not_full w fun hfull => h (Option.some.inj hfull).symm, rfl⟩

/-- Settles O36: the pop takes the last value off, or finds none. -/
theorem returnPopsIntoPc : Obligations.ReturnPopsIntoPc :=
  ⟨decodeWord_wordNat .ret, rfl, fun _ => ⟨fun _ _ h => popAndJump_of_concat h, fun h => popAndJump_of_empty h⟩⟩

end Sys2Proof.Machine
end

section
/-! SUPPORT. Result and flag (spec/42_alu.md R106 to R113): what the flag-writing instructions leave in Vx and VF, and
the flags as numbers. -/

namespace Sys2Proof.Machine

/-! ## The words of the shifts (R65) -/

/-- A word decodes to a row's instruction when the row's fixed bits and the fields are right. -/
theorem decodeWord_of_fixedBits {w : Word} {o : Op} {i : Instr} (ho : o.format.fixedBits w.toNat = o.pattern.toNat)
    (hi : o.assemble w = i) : decodeWord w = some i :=
  hi ▸ (masked_eq_pattern_iff_decodeWord w o).mp ((o.masked_eq_pattern_iff w).mpr ho)

/-- The number of a word with any x and y above a pattern of format XY, in its bits and fields. -/
theorem wordXY_toNat (p : Nat) (x y : Reg) (hp : p ≤ 0xF00F) :
    (BitVec.ofNat 16 (p + x.val * 256 + y.val * 16)).toNat = p + x.val * 256 + y.val * 16 := by
  have := x.isLt
  have := y.isLt
  rw [BitVec.toNat_ofNat]
  omega

theorem decodeWord_shr (x y : Reg) :
    decodeWord (BitVec.ofNat 16 (0x8006 + x.val * 256 + y.val * 16)) = some (.shr x) := by
  have hw := wordXY_toNat 0x8006 x y (by decide)
  refine decodeWord_of_fixedBits (o := .shr) ?_ (congrArg Instr.shr (fieldX_eq_iff.mpr (by omega)))
  show _ / 4096 * 4096 + _ % 16 = 0x8006
  omega

theorem decodeWord_shl (x y : Reg) :
    decodeWord (BitVec.ofNat 16 (0x800E + x.val * 256 + y.val * 16)) = some (.shl x) := by
  have hw := wordXY_toNat 0x800E x y (by decide)
  refine decodeWord_of_fixedBits (o := .shl) ?_ (congrArg Instr.shl (fieldX_eq_iff.mpr (by omega)))
  show _ / 4096 * 4096 + _ % 16 = 0x800E
  omega

/-! ## The flags as numbers -/

theorem flagByte_decide (p : Prop) [Decidable p] : flagByte (decide p) = if p then 1 else 0 := by
  simp only [flagByte, decide_eq_true_eq]

theorem flagByte_toNat (f : Bool) : (flagByte f).toNat = f.toNat := by cases f <;> rfl

/-- R108: the bit a right shift puts out. -/
theorem flagByte_lowBitOf_toNat (a : Byte) : (flagByte (lowBitOf a)).toNat = a.toNat % 2 := by
  rw [flagByte_toNat, lowBitOf, BitVec.getLsbD, Nat.toNat_testBit, pow_zero, Nat.div_one]

/-- R110: the bit a left shift puts out. -/
theorem flagByte_highBitOf_toNat (a : Byte) : (flagByte (highBitOf a)).toNat = a.toNat / 128 := by
  have := a.isLt
  rw [flagByte_toNat, highBitOf, BitVec.getLsbD, Nat.toNat_testBit]
  omega

/-! ## The writes of Vx and VF (R112: flag last) -/

theorem State.writeResultFlag_v (s : State) (x q : Reg) (r : Byte) (f : Bool) :
    (s.writeResultFlag Config.vfWriteOrder x r f).v[q] = if q = VF then flagByte f else if q = x then r else s.v[q] :=
  s.writeResultFlag_readV .flagLast x q r f

theorem State.writeResultFlag_VF (s : State) (x : Reg) (r : Byte) (f : Bool) :
    (s.writeResultFlag Config.vfWriteOrder x r f).v[VF] = flagByte f := by
  rw [State.writeResultFlag_v, if_pos rfl]

theorem State.writeFlag_VF (s : State) (f : Bool) : (s.writeFlag f).v[VF] = flagByte f :=
  s.writeV_getElem_self VF (flagByte f)

/-- The result in Vx unless x is VF, the flag in VF, and nothing else changed. -/
theorem next_writeResultFlag_sets_Vx_and_VF (s : State) (x : Reg) {r : Byte} (f : Bool) {n : Nat} (hr : r.toNat = n) :
    ∃ t, (.next (s.writeResultFlag Config.vfWriteOrder x r f) : StepResult) = .next t ∧
      (x ≠ VF → t.v[x].toNat = n) ∧ t.v[VF] = flagByte f ∧ OnlyVAtAndVF x s t := by
  refine ⟨_, rfl, fun hx => ?_, s.writeResultFlag_VF x r f, ⟨rfl, fun _ => rfl⟩, fun q hqx hqf => ?_⟩
  · rw [State.writeResultFlag_v, if_neg hx, if_pos rfl, hr]
  · rw [State.writeResultFlag_v, if_neg hqf, if_neg hqx]

/-- The seven instructions of R12: each writes a flag to VF, unless it faults and emits the fault's event. -/
theorem exec_writes_flag (x y : Reg) (n : BitVec 4) (s : State) {i : Instr}
    (hi : i ∈ [Instr.addReg x y, .subReg x y, .shr x, .subnReg x y, .shl x, .addI x, .drw x y n]) :
    ∃ t, exec i s = .next t ∧ (t.trace ≠ s.trace ∨ ∃ f, t.v[VF] = flagByte f) := by
  have alu (r : Byte) (f : Bool) := s.writeResultFlag_VF x r f
  simp only [List.mem_cons, List.not_mem_nil, or_false] at hi
  obtain rfl | rfl | rfl | rfl | rfl | rfl | rfl := hi
  · exact ⟨_, rfl, .inr ⟨_, alu _ _⟩⟩
  · exact ⟨_, rfl, .inr ⟨_, alu _ _⟩⟩
  · exact ⟨_, rfl, .inr ⟨_, alu _ _⟩⟩
  · exact ⟨_, rfl, .inr ⟨_, alu _ _⟩⟩
  · exact ⟨_, rfl, .inr ⟨_, alu _ _⟩⟩
  · exact ⟨_, rfl, .inr ⟨_, State.writeFlag_VF _ _⟩⟩
  · obtain ⟨-, -, e⟩ | ⟨-, e⟩ := withinMemory_eq s.i.toNat n.toNat s
      (.next ((s.setFb (s.drawing x y n).1).writeFlag (s.drawing x y n).2))
    · exact ⟨_, e, .inl fun h => List.cons_ne_nil _ _ (List.append_right_eq_self.mp h)⟩
    · exact ⟨_, e, .inr ⟨_, State.writeFlag_VF _ _⟩⟩

/-- The column of VF in the access matrix: the seven, and whoever has VF as its destination. -/
theorem writesRegister_VF {i : Instr} (h : WritesRegister i VF) :
    (∃ (x y : Reg) (n : BitVec 4),
      i ∈ [Instr.addReg x y, .subReg x y, .shr x, .subnReg x y, .shl x, .addI x, .drw x y n]) ∨
    (∃ (y : Reg) (kk : Byte), i ∈ [Instr.ldImm VF kk, .addImm VF kk, .rnd VF kk, .ldReg VF y, .orReg VF y, .andReg VF y,
      .xorReg VF y, .ldVxDT VF, .loadBlock VF]) := by
  rcases h with ⟨kk, h⟩ | ⟨y, h⟩ | rfl | rfl | rfl | ⟨x, rfl, hx⟩ | ⟨-, x, h⟩
  · exact .inr ⟨0, kk, by rcases h with rfl | rfl | rfl <;> simp⟩
  · rcases h with rfl | rfl | rfl | rfl | h
    · exact .inr ⟨y, 0, by simp⟩
    · exact .inr ⟨y, 0, by simp⟩
    · exact .inr ⟨y, 0, by simp⟩
    · exact .inr ⟨y, 0, by simp⟩
    · exact .inl ⟨VF, y, 0, by rcases h with rfl | rfl | rfl <;> simp⟩
  · exact .inl ⟨VF, 0, 0, by simp⟩
  · exact .inl ⟨VF, 0, 0, by simp⟩
  · exact .inr ⟨0, 0, by simp⟩
  · obtain rfl : x = VF := Fin.last_le_iff.mp hx
    exact .inr ⟨0, 0, by simp⟩
  · rcases h with rfl | rfl | rfl | ⟨y, h⟩ | ⟨y, n, rfl⟩
    · exact .inl ⟨x, 0, 0, by simp⟩
    · exact .inl ⟨x, 0, 0, by simp⟩
    · exact .inl ⟨x, 0, 0, by simp⟩
    · exact .inl ⟨x, y, 0, by rcases h with rfl | rfl | rfl <;> simp⟩
    · exact .inl ⟨x, y, n, by simp⟩

/-! ## The results as numbers -/

theorem byte_shiftRight_one_toNat (a : Byte) : (a >>> 1).toNat = a.toNat / 2 := by
  rw [BitVec.toNat_ushiftRight, Nat.shiftRight_eq_div_pow, pow_one]

theorem byte_shiftLeft_one_toNat (a : Byte) : (a <<< 1).toNat = a.toNat * 2 % 256 := by
  rw [BitVec.toNat_shiftLeft, Nat.shiftLeft_eq, pow_one]

theorem byte_sub_toNat (a b : Byte) : (a - b).toNat = (a.toNat + 256 - b.toNat) % 256 := by
  have := b.isLt
  rw [BitVec.toNat_sub]
  omega

end Sys2Proof.Machine
end

section
/-! The statements about the flag-writing arithmetic, the shifts and the random byte (spec/42_alu.md), and about VF
(spec/10_state.md R12). -/

namespace Sys2Proof.Machine

/-- Settles O42: the sum of bytes is modulo 256 and the flag is the carry. -/
theorem addSetsSumAndCarry : Obligations.AddSetsSumAndCarry := by
  intro x y s
  obtain ⟨t, ht, hx, hf, honly⟩ := next_writeResultFlag_sets_Vx_and_VF s x (carryOf s.v[x] s.v[y])
    (BitVec.toNat_add s.v[x] s.v[y])
  exact ⟨decodeWord_wordNat (.addReg x y), t, ht, hx, hf.trans (flagByte_decide _), honly⟩

/-- Settles O43: the difference of bytes is modulo 256 and the flag compares the operands. -/
theorem subtractSetsDifferenceAndNoBorrow : Obligations.SubtractSetsDifferenceAndNoBorrow := by
  intro x y s
  obtain ⟨t, ht, hx, hf, honly⟩ := next_writeResultFlag_sets_Vx_and_VF s x (noBorrowOf s.v[x] s.v[y])
    (byte_sub_toNat s.v[x] s.v[y])
  obtain ⟨u, hu, hx', hf', honly'⟩ := next_writeResultFlag_sets_Vx_and_VF s x (noBorrowOf s.v[y] s.v[x])
    (byte_sub_toNat s.v[y] s.v[x])
  exact ⟨decodeWord_wordNat (.subReg x y), decodeWord_wordNat (.subnReg x y),
    ⟨t, ht, hx, hf.trans (flagByte_decide _), honly⟩, u, hu, hx', hf'.trans (flagByte_decide _), honly'⟩

/-- Settles O44: a shift by one is a division or a product by 2, whatever y the word has. -/
theorem shiftsMoveOneBit : Obligations.ShiftsMoveOneBit := by
  intro x y s
  obtain ⟨t, ht, hx, hf, honly⟩ := next_writeResultFlag_sets_Vx_and_VF s x (lowBitOf s.v[x])
    (byte_shiftRight_one_toNat s.v[x])
  obtain ⟨u, hu, hx', hf', honly'⟩ := next_writeResultFlag_sets_Vx_and_VF s x (highBitOf s.v[x])
    (byte_shiftLeft_one_toNat s.v[x])
  exact ⟨decodeWord_shr x y, decodeWord_shl x y,
    ⟨t, ht, hx, (congrArg BitVec.toNat hf).trans (flagByte_lowBitOf_toNat _), honly⟩,
    u, hu, hx', (congrArg BitVec.toNat hf').trans (flagByte_highBitOf_toNat _), honly'⟩

/-- Settles O45: the byte written is the free byte of the draw under the mask kk. -/
theorem randomMasksFreeByte : Obligations.RandomMasksFreeByte := by
  intro x kk s
  have hx : ((s.countDraw).writeV x (Config.randomByte s.draws &&& kk)).v[x] = Config.randomByte s.draws &&& kk :=
    s.countDraw.writeV_getElem_self x _
  refine ⟨decodeWord_wordNat (.rnd x kk), _, rfl, hx, fun b hb => ?_, (s.countDraw.writeV_onlyVAt x _).2, rfl,
    fun _ => rfl⟩
  rw [hx, BitVec.getLsbD_and, hb, Bool.and_false]

/-- Settles O31: the seven write the flag's byte to VF last, and the access matrix names whoever else writes VF. -/
theorem vfIsWrittenAsFlagBySevenOnly : Obligations.VfIsWrittenAsFlagBySevenOnly := by
  refine ⟨fun x y n s i hi => ?_, fun i s t h hne => writesRegister_VF ((exec_accessRow h).v VF hne)⟩
  obtain ⟨t, ht, hflag⟩ := exec_writes_flag x y n s hi
  refine ⟨t, ht, fun _ htrace => ?_⟩
  obtain hfault | ⟨f, hf⟩ := hflag
  · exact absurd htrace hfault
  · exact hf ▸ flagByte_eq f

end Sys2Proof.Machine
end

section
/-! SUPPORT. The index and memory instructions (spec/43_index_memory.md): the sum of R121, and the bytes and registers
of an access within memory or beyond it (spec/20_memory.md R45). -/

namespace Sys2Proof.Machine

/-- R121 with INDEX_BITS = 16. -/
theorem indexMasked_toNat (i : Word) (b : Byte) :
    (indexMasked Config.indexBits i b).toNat = (i.toNat + b.toNat) % 65536 := by
  rw [indexMasked, indexSum, BitVec.toNat_ofNat]
  exact Nat.mod_mod _ _

/-- A decimal digit fits a byte (R123). -/
theorem digit_toNat {d : Nat} (h : d < 10) : (BitVec.ofNat 8 d).toNat = d := by
  rw [BitVec.toNat_ofNat]
  omega

theorem withinMemory_of_within {base count : Nat} (s : State) (effect : StepResult)
    (h : count = 0 ∨ base + count - 1 ≤ 0xFFF) : withinMemory base count s effect = effect :=
  if_neg (by simp only [highestAddr, Config.lastAddr]; omega)

theorem withinMemory_of_beyond {base count top : Nat} (s : State) (effect : StepResult) (hcount : 0 < count)
    (htop : base + count - 1 = top) (h : 0xFFF < top) :
    withinMemory base count s effect = .next (faultEntry .outOfBounds top s) := by
  subst htop
  exact if_pos ⟨hcount, h⟩

/-- Bytes stored from I on lie there in order, and every other byte reads as before (R44). -/
theorem next_writeBytes_stores {bs : List Byte} {s : State} (hmem : s.mem.wf) (hin : s.i.toNat + bs.length ≤ 0x1000) :
    ∃ t, (.next (s.setMem (s.mem.writeBytes s.i.toNat bs)) : StepResult) = .next t ∧
      (∀ (j : Nat) (hj : j < bs.length), t.mem.read (s.i.toNat + j) = bs[j]) ∧
      (∀ a, (a < s.i.toNat ∨ s.i.toNat + bs.length ≤ a) → t.mem.read a = s.mem.read a) ∧
      t.mem.wf ∧ t = { s with mem := t.mem } := by
  refine ⟨_, rfl, fun j hj => ?_, fun a ha => ?_, Memory.writeBytes_wf hmem hin, rfl⟩
  · rw [State.setMem_mem, Memory.read_writeBytes hmem hin, if_pos (by omega), Nat.add_sub_cancel_left,
      List.getD_eq_getElem _ _ hj]
  · rw [State.setMem_mem, Memory.read_writeBytes hmem hin, if_neg (by omega)]

end Sys2Proof.Machine
end

section
/-! The statements about the index register and memory (spec/43_index_memory.md, spec/20_memory.md section 2). -/

namespace Sys2Proof.Machine

/-- Settles O47: I takes the sum modulo 2^16 and VF its overflow, both of the old Vx. -/
theorem addIndexSetsOverflow : Obligations.AddIndexSetsOverflow := fun x s =>
  ⟨decodeWord_wordNat (.addI x), _, rfl, indexMasked_toNat s.i s.v[x],
    (State.writeFlag_VF _ _).trans (flagByte_decide _), (State.writeV_onlyVAt _ VF _).2, rfl, fun _ => rfl⟩

/-- Settles O48: the three bytes stored are the decimal digits. -/
theorem bcdStoresThreeDigits : Obligations.BcdStoresThreeDigits := by
  intro x s
  refine ⟨decodeWord_wordNat (.ldB x), fun hmem hin => ?_⟩
  have hlen : (bcdDigits s.v[x]).length = 3 := rfl
  have hv := s.v[x].isLt
  obtain ⟨t, ht, hread, hothers, hwf, hframe⟩ := next_writeBytes_stores (bs := bcdDigits s.v[x]) hmem (by omega)
  refine ⟨t, (withinMemory_of_within s _ (by omega)).trans ht, ?_, ?_, ?_, fun a ha => hothers a (by omega), hwf,
    hframe⟩
  · exact (congrArg BitVec.toNat (hread 0 (by omega))).trans (digit_toNat (by omega))
  · exact (congrArg BitVec.toNat (hread 1 (by omega))).trans (digit_toNat (by omega))
  · exact (congrArg BitVec.toNat (hread 2 (by omega))).trans (digit_toNat (by omega))

/-- Settles O49: the bytes stored are the registers up to x, in order. -/
theorem storeBlockCopiesRegisters : Obligations.StoreBlockCopiesRegisters := by
  intro x s
  refine ⟨decodeWord_wordNat (.storeBlock x), fun hmem hin => ?_⟩
  have hlen := blockBytes_length s x
  obtain ⟨t, ht, hread, hothers, hwf, hframe⟩ := next_writeBytes_stores (bs := s.blockBytes x) hmem (by omega)
  refine ⟨t, (withinMemory_of_within s _ (by rw [blockCount]; omega)).trans ht, fun j hj => ?_,
    fun a ha => hothers a (by omega), hwf, hframe⟩
  exact (hread j.val (by omega)).trans (blockBytes_getElem s x j hj)

/-- Settles O50: the block load fills the registers up to x and keeps the others. -/
theorem loadBlockFillsRegisters : Obligations.LoadBlockFillsRegisters := by
  intro x s
  refine ⟨decodeWord_wordNat (.loadBlock x), fun hin => ?_⟩
  have hread (r : Reg) := loadBlockRegs_readV s s.i.toNat x r
  have hframe := loadBlockRegs_frame s s.i.toNat x
  refine ⟨_, withinMemory_of_within s _ (by rw [blockCount]; omega), fun j hj => (hread j).trans (if_pos hj),
    fun j hj => (hread j).trans (if_neg (not_le.mpr hj)), hframe, ?_⟩
  rw [hframe]
  exact fun _ => rfl

/-- Settles O51: the highest address of the bytes an instruction asks for is the address recorded. -/
theorem dataBeyondMemoryFaults : Obligations.DataBeyondMemoryFaults := by
  refine ⟨rfl, fun x y n s => ⟨fun h => ?_, fun h => ⟨?_, ?_⟩, fun hn h => ?_⟩⟩
  · exact withinMemory_of_beyond s _ (by decide) (by omega) h
  · exact withinMemory_of_beyond s _ (Nat.succ_pos _) (by rw [blockCount]; omega) h
  · exact withinMemory_of_beyond s _ (Nat.succ_pos _) (by rw [blockCount]; omega) h
  · exact withinMemory_of_beyond s _ hn rfl h

end Sys2Proof.Machine
end

section
/-! SUPPORT. Sprites (spec/44_display.md section 2): the source bits of `DRW`, and a sprite drawn twice. -/

namespace Sys2Proof.Machine

/-- The source bit of the statement is the drawing's own (R133, R136). -/
theorem spriteHits_iff {s : State} {x y : Reg} {n : BitVec 4} {px py : Nat} :
    spriteHits s x y n px py ↔
      spriteBit (s.mem.readBytes s.i.toNat n.toNat) s.v[x].toNat s.v[y].toNat px py = true := by
  simp only [spriteHits, spriteBit, Memory.readBytes_length, Bool.and_eq_true, decide_eq_true_eq, and_assoc]
  refine and_congr_right fun _ => and_congr_right fun _ => and_congr_right fun _ => and_congr_right fun hpy => ?_
  rw [List.getD_eq_getElem _ _ (by rw [Memory.readBytes_length]; omega), Memory.readBytes_getElem]

theorem drawSprite_pixel (cx cy : Nat) (rows : List Byte) (fb : Framebuffer) {x y : Nat} (hx : x < 64) (hy : y < 32) :
    Framebuffer.pixel (drawSprite cx cy rows fb).1 x y = (Framebuffer.pixel fb x y ^^ spriteBit rows cx cy x y) :=
  drawRows_pixel cx rows cy (fb, false) hx hy

theorem drawSprite_collision {cx cy : Nat} {rows : List Byte} {fb : Framebuffer} :
    (drawSprite cx cy rows fb).2 = true ↔
      ∃ x y, x < 64 ∧ y < 32 ∧ spriteBit rows cx cy x y = true ∧ Framebuffer.pixel fb x y = true :=
  (drawRows_collision cx rows cy (fb, false)).trans (by simp)

/-- The drawing of `DRW` toggles exactly the pixels its sprite hits. -/
theorem State.drawing_pixel (s : State) (x y : Reg) (n : BitVec 4) {px py : Nat} (hpx : px < 64) (hpy : py < 32) :
    Framebuffer.pixel (s.drawing x y n).1 px py = (s.fb.pixel px py ^^
      spriteBit (s.mem.readBytes s.i.toNat n.toNat) s.v[x].toNat s.v[y].toNat px py) :=
  drawSprite_pixel _ _ _ s.fb hpx hpy

theorem State.drawing_collision (s : State) (x y : Reg) (n : BitVec 4) :
    (s.drawing x y n).2 = true ↔
      ∃ px py, px < 64 ∧ py < 32 ∧ spriteHits s x y n px py ∧ s.fb.pixel px py = true := by
  simp only [spriteHits_iff]
  exact drawSprite_collision

/-- A draw changes the framebuffer exactly when a source bit falls on the grid. -/
theorem drawSprite_ne_iff {cx cy : Nat} {rows : List Byte} {fb : Framebuffer} :
    (drawSprite cx cy rows fb).1 ≠ fb ↔ ∃ x y, x < 64 ∧ y < 32 ∧ spriteBit rows cx cy x y = true := by
  refine not_iff_comm.mp ⟨fun hnone => ?_, fun heq => ?_⟩
  · refine Framebuffer.ext_pixel fun x y hx hy => ?_
    have hbit : spriteBit rows cx cy x y = false := Bool.eq_false_iff.mpr fun hbit => hnone ⟨x, y, hx, hy, hbit⟩
    rw [drawSprite_pixel cx cy rows fb hx hy, hbit, Bool.xor_false]
  · rintro ⟨x, y, hx, hy, hbit⟩
    have hp := drawSprite_pixel cx cy rows fb hx hy
    rw [heq, hbit] at hp
    cases hpix : Framebuffer.pixel fb x y <;> rw [hpix] at hp <;> exact absurd hp (by decide)

end Sys2Proof.Machine
end

section
/-! The statements about drawing (spec/44_display.md sections 1 and 2). -/

namespace Sys2Proof.Machine

/-- Settles O53: the drawing toggles the pixels of its source bits, and its collision goes to VF. -/
theorem drawTogglesPixelsAndSetsCollision : Obligations.DrawTogglesPixelsAndSetsCollision := by
  intro x y n s
  refine ⟨decodeWord_wordNat (.drw x y n), fun hin => ?_⟩
  have hflag : ((s.setFb (s.drawing x y n).1).writeFlag (s.drawing x y n).2).v[VF] = flagByte (s.drawing x y n).2 :=
    State.writeFlag_VF _ _
  refine ⟨_, withinMemory_of_within s _ hin, fun px py hpx hpy => ⟨fun hhit => ?_, fun hmiss => ?_⟩, fun hhit => ?_,
    fun hmiss => ?_, (State.writeV_onlyVAt _ VF _).2, rfl, fun _ => rfl⟩
  · exact (s.drawing_pixel x y n hpx hpy).trans (by rw [spriteHits_iff.mp hhit, Bool.xor_true])
  · rw [spriteHits_iff, Bool.not_eq_true] at hmiss
    exact (s.drawing_pixel x y n hpx hpy).trans (by rw [hmiss, Bool.xor_false])
  · rw [hflag, (s.drawing_collision x y n).mpr hhit]
    rfl
  · rw [hflag, Bool.eq_false_iff.mpr (mt (s.drawing_collision x y n).mp hmiss)]
    rfl

/-- Settles O54: the second draw toggles the same pixels, which it finds on where the first found them off. -/
theorem spriteDrawnTwiceVanishes : Obligations.SpriteDrawnTwiceVanishes := by
  intro cx cy rows fb
  refine ⟨Framebuffer.ext_pixel fun x y hx hy => ?_, fun hfirst => ?_⟩
  · rw [drawSprite_pixel _ _ _ _ hx hy, drawSprite_pixel _ _ _ _ hx hy, Bool.xor_assoc, Bool.xor_self, Bool.xor_false]
  · rw [drawSprite_collision, drawSprite_ne_iff]
    refine exists_congr fun x => exists_congr fun y => and_congr_right fun hx => and_congr_right fun hy =>
      and_iff_left_of_imp fun hbit => ?_
    have hoff : Framebuffer.pixel fb x y = false := Bool.eq_false_iff.mpr fun hon =>
      Bool.false_ne_true (hfirst.symm.trans (drawSprite_collision.mpr ⟨x, y, hx, hy, hbit, hon⟩))
    rw [drawSprite_pixel _ _ _ _ hx hy, hoff, hbit]
    rfl

end Sys2Proof.Machine
end

section
/-! SUPPORT. Skips on a key (spec/45_timer_key.md R150, R151). -/

namespace Sys2Proof.Machine

/-- R150: the key a register value names is its value modulo 16. -/
theorem keyOf_eq {b : Byte} {k : Key} (h : k.val = b.toNat % 16) : keyOf b = k := by
  rw [Fin.ext_iff, h]
  simp [keyOf]

end Sys2Proof.Machine
end

section
/-! The statements about keys and timers (spec/45_timer_key.md). -/

namespace Sys2Proof.Machine

/-- Settles O55: the meanings are skips on the key's flag. -/
theorem skipOnKey : Obligations.SkipOnKey := by
  intro x k s hk
  have hkey : keyOf (s.readV x) = k := keyOf_eq hk
  refine ⟨decodeWord_wordNat (.skp x), decodeWord_wordNat (.sknp x), ?_, ?_⟩
  · rw [exec, execSkp, hkey, skipIf_eq]
    rfl
  · rw [exec, execSknp, hkey, skipIf_eq, State.isKeyDown]
    cases s.keys[k] <;> rfl

/-- Settles O56: each meaning is one write. -/
theorem timerMoves : Obligations.TimerMoves := fun x s =>
  ⟨decodeWord_wordNat (.ldVxDT x), decodeWord_wordNat (.ldDTVx x), decodeWord_wordNat (.ldSTVx x),
    next_writeV_sets_only_Vx s x s.dt, rfl, rfl⟩

/-- Settles O57: the meaning writes the key-wait and nothing else. -/
theorem waitKeyArmsLatch : Obligations.WaitKeyArmsLatch := fun x _ =>
  ⟨decodeWord_wordNat (.ldVxK x), rfl⟩

end Sys2Proof.Machine
end

section
/-! The statement about the reset values (spec/10_state.md section 9). -/

namespace Sys2Proof.Machine

/-- Settles O22: an unlisted address reads as the font or as 0, and every other field is read off the reset state. -/
theorem resetValues : Obligations.ResetValues :=
  ⟨fun _ _ => rfl, rfl, fun _ ha => List.getD_eq_default Config.font 0 ha,
    fun r => Vector.getElem_replicate r.isLt, rfl, rfl, rfl, rfl, rfl, Framebuffer.pixel_clear, rfl,
    fun k => Vector.getElem_replicate k.isLt, rfl, rfl, rfl, rfl, rfl, rfl, rfl⟩

end Sys2Proof.Machine
end
